-- ==== Sys2Proof/Word.lean ====
section
/-! DEFINITION. The value types of the block: register widths (00_scope.md R8), port words and their index (20_memory.md R70, R76), point values (00_scope.md R14). -/

namespace Sys2Proof

/-- A big register's value: `W` = `KW` = 192 bits, unsigned (00_scope.md R8, 10_state.md R31). -/
abbrev Big := BitVec 192

/-- One word of the host port: `BUSW` = 32 bits (00_scope.md R8). -/
abbrev Word := BitVec 32

/-- The port's address is a word index, 256 words of four bytes (20_memory.md R70, R76); index w is offset `4 * w`. -/
abbrev WordIndex := Fin 256

/-- A point value (00_scope.md R14): the identity is a tag, never a coordinate pair (42_group_law.md R173). -/
inductive Point where
  | infinity
  | affine (x y : Nat)
deriving DecidableEq, Repr, Inhabited

end Sys2Proof
end

