-- ==== Sys2Proof/Syntax.lean ====
section
/-! DEFINITION. The ten commands of P192CMD-1 (30_encoding.md R103), one constructor per row of spec/opcode_table.json. -/

namespace Sys2Proof

/-- A command. Only LDCURVE carries an operand, its curve identifier `CID` (30_encoding.md R102); every other operand is a fixed register (R107). -/
inductive Instr where
  | modadd
  | modsub
  | modmul
  | modsqr
  | modinv
  | moddiv
  | padd
  | pdbl
  | smul
  | ldcurve (cid : Nat)
deriving DecidableEq, Repr

end Sys2Proof
end

