-- ==== Sys2Proof/WellFormed.lean ====
section
/-! DEFINITION. Which terms of `Instr` a command word can carry. -/

namespace Sys2Proof

/-- `CID` is an unsigned 8-bit value, 0 to 255 (30_encoding.md R102); no other command has an operand to check. -/
def Instr.wellFormed : Instr → Bool
  | .modadd => true
  | .modsub => true
  | .modmul => true
  | .modsqr => true
  | .modinv => true
  | .moddiv => true
  | .padd => true
  | .pdbl => true
  | .smul => true
  | .ldcurve cid => decide (cid < 256)

end Sys2Proof
end

