-- ==== Sys2Proof/Decode.lean ====
section
/-! DEFINITION. The command word (30_encoding.md R100 to R106): its fields, the total decoder, the encoder, and the opcode table with masks. -/

namespace Sys2Proof

/-- Why a word is no command; 30_encoding.md R104 has the one answer `Illegal`, the three names say which test refused it (log 17). -/
inductive Illegal where
  /-- A bit of 31:16 is set. -/
  | zeroFieldSet
  /-- `IMM` is not 0 on a word that is not LDCURVE. -/
  | immFieldSet
  /-- `OP` is none of the ten opcodes. -/
  | noSuchOpcode
deriving DecidableEq, Repr

/-- `OP` = c[7:0] (30_encoding.md R101). -/
def opField (c : Word) : BitVec 8 := c.extractLsb' 0 8

/-- `IMM` = c[15:8] (30_encoding.md R101). -/
def immField (c : Word) : BitVec 8 := c.extractLsb' 8 8

/-- `ZERO` = c[31:16] (30_encoding.md R101). -/
def zeroField (c : Word) : BitVec 16 := c.extractLsb' 16 16

/-- The command whose opcode is `op` when `IMM` is 0 and `OP` is not LDCURVE's (30_encoding.md R103). -/
def decodeOp (op : BitVec 8) : Except Illegal Instr :=
  if op = 0x01#8 then .ok .modadd
  else if op = 0x02#8 then .ok .modsub
  else if op = 0x03#8 then .ok .modmul
  else if op = 0x04#8 then .ok .modsqr
  else if op = 0x05#8 then .ok .modinv
  else if op = 0x06#8 then .ok .moddiv
  else if op = 0x10#8 then .ok .padd
  else if op = 0x11#8 then .ok .pdbl
  else if op = 0x12#8 then .ok .smul
  else .error .noSuchOpcode

/-- `Decode(c)` of 30_encoding.md R104, its tests in the order shown there. -/
def decode (c : Word) : Except Illegal Instr :=
  if zeroField c ≠ 0#16 then .error .zeroFieldSet
  else if opField c = 0x20#8 then .ok (.ldcurve (immField c).toNat)
  else if immField c ≠ 0#8 then .error .immFieldSet
  else decodeOp (opField c)

/-- The decoder on an instruction numbered as spec/opcode_table.json numbers it: one 32-bit word, bit 0 least significant; a word of fewer bits has zeros above, a longer one is no command (30_encoding.md R100, log 22). -/
def decodeTableWord (nbits w : Nat) : Option Instr :=
  if nbits ≤ 32 ∧ w < 2 ^ nbits then
    match decode (BitVec.ofNat 32 w) with
    | .ok i => some i
    | .error _ => none
  else none

/-- The opcode of each command (30_encoding.md R103). -/
def opcodeOf : Instr → BitVec 8
  | .modadd => 0x01#8
  | .modsub => 0x02#8
  | .modmul => 0x03#8
  | .modsqr => 0x04#8
  | .modinv => 0x05#8
  | .moddiv => 0x06#8
  | .padd => 0x10#8
  | .pdbl => 0x11#8
  | .smul => 0x12#8
  | .ldcurve _ => 0x20#8

/-- The `IMM` field of each command: `CID` for LDCURVE, 0 for every other (30_encoding.md R101, R102). -/
def immOf : Instr → BitVec 8
  | .ldcurve cid => BitVec.ofNat 8 cid
  | .modadd | .modsub | .modmul | .modsqr | .modinv | .moddiv | .padd | .pdbl | .smul => 0#8

/-- The word of a command: `ZERO`, `IMM`, `OP` from the high bits down (30_encoding.md R101, R103). -/
def encode (i : Instr) : Word := (0#16 ++ immOf i) ++ opcodeOf i

/-- The row's `mask` in 30_encoding.md R103. -/
def maskOf : Instr → Word
  | .ldcurve _ => 0xFFFF00FF#32
  | .modadd | .modsub | .modmul | .modsqr | .modinv | .moddiv | .padd | .pdbl | .smul => 0xFFFFFFFF#32

/-- The row's `match` in 30_encoding.md R103. -/
def patternOf : Instr → Word
  | .modadd => 0x00000001#32
  | .modsub => 0x00000002#32
  | .modmul => 0x00000003#32
  | .modsqr => 0x00000004#32
  | .modinv => 0x00000005#32
  | .moddiv => 0x00000006#32
  | .padd => 0x00000010#32
  | .pdbl => 0x00000011#32
  | .smul => 0x00000012#32
  | .ldcurve _ => 0x00000020#32

/-- A word selects a command's row when `c AND mask = match` (30_encoding.md R103). -/
abbrev selectsRow (c : Word) (i : Instr) : Prop := c &&& maskOf i = patternOf i

end Sys2Proof
end

