-- ==== Sys2Proof/Config.lean ====
section
/-! DEFINITION. What is fixed for this block (00_scope.md R8) and the free values: what the hidden registers hold once a command has ended or the block was reset (10_state.md R44, 70_reset_and_hazards.md R281). A free value has no body, so nothing can be proved of it (log 6). -/

namespace Sys2Proof.Config

/-- The command-set name of 00_scope.md R4. -/
def commandSet : String := "P192CMD-1"

/-- `W` of 00_scope.md R8. -/
def bigWidth : Nat := 192

/-- `WINDOW` of 00_scope.md R8, in bytes. -/
def windowBytes : Nat := 0x400

/-- `NCURVES` of 00_scope.md R8: the curve ROM has rows 0 and 1. -/
def numCurves : Nat := 2

/-- The n-th free value of `CUR`, meaningless outside a command (10_state.md R44; DESIGN CHOICE of form, log 6; safe). -/
opaque freeCur : Nat → Word

/-- The n-th free value of `ACC` (10_state.md R44; log 6; safe). -/
opaque freeAcc : Nat → Point

/-- The n-th free value of `RUN` (10_state.md R44; log 6; safe). -/
opaque freeRun : Nat → Point

/-- The n-th free value of `IDX`, 0 to 192 (10_state.md R44; log 6; safe). -/
opaque freeIdx : Nat → Fin 193

/-- The n-th free value of the slope working value (10_state.md R44; log 6; safe). -/
opaque freeSlope : Nat → Big

/-- The n-th free value of the inverse working value (10_state.md R44; log 6; safe). -/
opaque freeInverse : Nat → Big

/-- The n-th free value of the first remainder of the inverse algorithm (10_state.md R44; log 6; safe). -/
opaque freeRem0 : Nat → Big

/-- The n-th free value of the second remainder of the inverse algorithm (10_state.md R44; log 6; safe). -/
opaque freeRem1 : Nat → Big

end Sys2Proof.Config
end

