-- ==== Sys2Proof/Machine/State.lean ====
section
/-! DEFINITION. Everything the spec gives the machine (10_state.md R30, R44), the events at its port (00_scope.md R20, R21), the error kinds (60_exceptions.md R251), how a step can stop, and the state after reset (10_state.md R49). -/

namespace Sys2Proof.Machine

/-- The error kinds of 60_exceptions.md R251, in the order of their codes 1 to 7. -/
inductive ErrKind where
  | memoryExhaustion
  | invalidEncoding
  | noModularInverse
  | entropyUnavailable
  | curveConstructionError
  | operandRange
  | illegalCommand
deriving DecidableEq, Repr

/-- The sixteen 192-bit registers by name (10_state.md R30). -/
inductive BigReg where
  | cp | ca | cb | cgx | cgy | cn
  | fa | fb | fr
  | px | py | qx | qy | rx | ry
  | k
deriving DecidableEq, Repr

/-- What takes effect at the block in one step: a host transaction (20_memory.md R71), a reset (70_reset_and_hazards.md R280), or a turn of the engine (00_scope.md R20). -/
inductive Event where
  | hostRead (w : WordIndex)
  | hostWrite (w : WordIndex) (v : Word)
  | reset
  | engine
deriving DecidableEq, Repr

/-- The hidden registers but `CUR` (10_state.md R44): `ACC`, `RUN`, `IDX` and the units' working values (their number and widths: log 8). -/
structure Hidden where
  acc     : Point
  run     : Point
  idx     : Fin 193
  slope   : Big
  inverse : Big
  rem0    : Big
  rem1    : Big
deriving DecidableEq, Repr

/-- Why a step stops with a fault. -/
inductive Fault where
  /-- Raised by the engine's turn (Machine/Step.lean) when `BUSY` = 1 and `CUR` decodes to no command: a state no run reaches (30_encoding.md R110 accepts legal words only) and to which the spec gives no step. Safe (log 10). -/
  | curNotACommand
deriving DecidableEq, Repr

/-- Why a step is refused. -/
inductive Refusal where
  /-- Raised by an arm of `exec` for an instruction that has no meaning yet; no arm does. Safe. -/
  | notModelled (mnemonic : String)
deriving DecidableEq, Repr

/-- The block's state (10_state.md R30, R44), the host's events that have not taken effect, the values its reads returned, and the count of free values drawn. -/
structure State where
  /-- Curve registers (10_state.md R38). -/
  cp       : Big
  ca       : Big
  cb       : Big
  cgx      : Big
  cgy      : Big
  cn       : Big
  keybits  : Word
  cofactor : Word
  /-- Field operands and result (10_state.md R32). -/
  fa       : Big
  fb       : Big
  fr       : Big
  /-- Point registers P, Q, R: tag, X, Y (10_state.md R33, R34, R46). -/
  pinf     : Bool
  px       : Big
  py       : Big
  qinf     : Bool
  qx       : Big
  qy       : Big
  rinf     : Bool
  rx       : Big
  ry       : Big
  /-- The scalar (10_state.md R37). -/
  k        : Big
  /-- Status bits (10_state.md R45). -/
  busy     : Bool
  done     : Bool
  err      : Bool
  errcode  : BitVec 4
  /-- `CUR`, the accepted command word (10_state.md R42, R44). -/
  cur      : Word
  /-- The other hidden registers (10_state.md R44). -/
  hidden   : Hidden
  /-- The model's own: events that have not taken effect, the next one first (log 2). -/
  pending  : List Event
  /-- The model's own: what `HostRead` has returned, oldest first (log 5). -/
  answers  : List Word
  /-- The model's own: how many free values have been drawn (log 6). -/
  drawn    : Nat
deriving DecidableEq, Repr

/-- The hidden registers' values in `State.reset`: unspecified by 10_state.md R49 (DESIGN CHOICE, log 7; unsafe). -/
def Hidden.reset : Hidden :=
  { acc := .infinity, run := .infinity, idx := 0, slope := 0, inverse := 0, rem0 := 0, rem1 := 0 }

/-- The state after reset: every host-visible bit 0 (10_state.md R49, 70_reset_and_hazards.md R281), nothing sent to the block yet; the hidden values are log 7's. -/
def State.reset : State :=
  { cp := 0, ca := 0, cb := 0, cgx := 0, cgy := 0, cn := 0, keybits := 0, cofactor := 0,
    fa := 0, fb := 0, fr := 0,
    pinf := false, px := 0, py := 0, qinf := false, qx := 0, qy := 0, rinf := false, rx := 0, ry := 0,
    k := 0,
    busy := false, done := false, err := false, errcode := 0,
    cur := 0, hidden := Hidden.reset,
    pending := [], answers := [], drawn := 0 }

/-- The outcome of a meaning. -/
abbrev Result := Host.Outcome State Fault Refusal

end Sys2Proof.Machine
end

