-- ==== Sys2Proof/Machine/Flags.lean ====
section
/-! DEFINITION. The block's only flags (10_state.md R48): the views `STATUS` and `PFLAGS`, and the numbers of the error kinds. -/

namespace Sys2Proof.Machine

/-- `code(E)` (60_exceptions.md R251). -/
def ErrKind.code : ErrKind → BitVec 4
  | .memoryExhaustion => 1
  | .invalidEncoding => 2
  | .noModularInverse => 3
  | .entropyUnavailable => 4
  | .curveConstructionError => 5
  | .operandRange => 6
  | .illegalCommand => 7

/-- The kind a code stands for; 0 and the reserved codes 8 to 15 stand for none (60_exceptions.md R251). -/
def ErrKind.ofCode (c : BitVec 4) : Option ErrKind :=
  if c = 1 then some .memoryExhaustion
  else if c = 2 then some .invalidEncoding
  else if c = 3 then some .noModularInverse
  else if c = 4 then some .entropyUnavailable
  else if c = 5 then some .curveConstructionError
  else if c = 6 then some .operandRange
  else if c = 7 then some .illegalCommand
  else none

/-- A flag as one bit. -/
def bit (b : Bool) : BitVec 1 := BitVec.ofBool b

/-- `STATUS` as the host reads it: ERRCODE 11:8, ERR 2, DONE 1, BUSY 0, the rest reserved and 0 (10_state.md R45). -/
def statusWord (s : State) : Word :=
  0#20 ++ s.errcode ++ 0#5 ++ bit s.err ++ bit s.done ++ bit s.busy

/-- `PFLAGS` as the host reads it: RINF 2, QINF 1, PINF 0, the rest reserved and 0 (10_state.md R46). -/
def pflagsWord (s : State) : Word :=
  0#29 ++ bit s.rinf ++ bit s.qinf ++ bit s.pinf

/-- A host write to `PFLAGS`: PINF ← v[0], QINF ← v[1]; RINF and the reserved bits ignore it (10_state.md R46, 20_memory.md R78). -/
def writePflags (v : Word) (s : State) : State :=
  { s with pinf := v.getLsbD 0, qinf := v.getLsbD 1 }

end Sys2Proof.Machine
end

