-- ==== Sys2Proof/Machine/Ops.lean ====
section
/-! DEFINITION. The named operations over the registers: access by name and by word (20_memory.md R73), error entry (60_exceptions.md R255), its clearing (R258), acceptance and completion (30_encoding.md R110, R112), reset (70_reset_and_hazards.md R280). -/

namespace Sys2Proof.Machine

/-- A big register's value. -/
def State.big (s : State) : BigReg → Big
  | .cp => s.cp
  | .ca => s.ca
  | .cb => s.cb
  | .cgx => s.cgx
  | .cgy => s.cgy
  | .cn => s.cn
  | .fa => s.fa
  | .fb => s.fb
  | .fr => s.fr
  | .px => s.px
  | .py => s.py
  | .qx => s.qx
  | .qy => s.qy
  | .rx => s.rx
  | .ry => s.ry
  | .k => s.k

/-- Storing into a big register. -/
def State.setBig (s : State) (r : BigReg) (v : Big) : State :=
  match r with
  | .cp => { s with cp := v }
  | .ca => { s with ca := v }
  | .cb => { s with cb := v }
  | .cgx => { s with cgx := v }
  | .cgy => { s with cgy := v }
  | .cn => { s with cn := v }
  | .fa => { s with fa := v }
  | .fb => { s with fb := v }
  | .fr => { s with fr := v }
  | .px => { s with px := v }
  | .py => { s with py := v }
  | .qx => { s with qx := v }
  | .qy => { s with qy := v }
  | .rx => { s with rx := v }
  | .ry => { s with ry := v }
  | .k => { s with k := v }

/-- Word j of a big register, bits [191 - 32*j : 160 - 32*j]: the lowest word index is the most significant (20_memory.md R73). -/
def bigWord (x : Big) (j : Nat) : Word := x.extractLsb' (160 - 32 * j) 32

/-- Storing word j; the other 160 bits keep their value (20_memory.md R78). -/
def setBigWord (x : Big) (j : Nat) (v : Word) : Big :=
  (x &&& ~~~((0xFFFFFFFF#192) <<< (160 - 32 * j))) ||| (v.setWidth 192 <<< (160 - 32 * j))

/-- The hidden state is released: its content outside a command is unspecified, so every hidden register takes a free value (10_state.md R44, log 6). -/
def State.release (s : State) : State :=
  { s with
    cur := Config.freeCur s.drawn
    hidden :=
      { acc := Config.freeAcc s.drawn, run := Config.freeRun s.drawn, idx := Config.freeIdx s.drawn,
        slope := Config.freeSlope s.drawn, inverse := Config.freeInverse s.drawn,
        rem0 := Config.freeRem0 s.drawn, rem1 := Config.freeRem1 s.drawn }
    drawn := s.drawn + 1 }

/-- ERROR ENTRY, the block's counterpart of taking an exception: `BUSY` ← 0, `DONE` ← 1, `ERR` ← 1, `ERRCODE` ← code, nothing else (60_exceptions.md R255; 30_encoding.md R111, R112). -/
def State.recordError (s : State) (e : ErrKind) : State :=
  { s with busy := false, done := true, err := true, errcode := e.code }

/-- CLEARING THE ERROR, the counterpart of a return: with v[2] = 1 and `ERR` = 1, `ERR` ← 0 and `ERRCODE` ← 0; otherwise nothing (60_exceptions.md R258). -/
def State.clearError (s : State) (v : Word) : State :=
  if v.getLsbD 2 = true ∧ s.err = true then { s with err := false, errcode := 0 } else s

/-- Acceptance of a legal command word (30_encoding.md R110). -/
def State.accept (s : State) (c : Word) : State :=
  { s with cur := c, busy := true, done := false }

/-- A command that ends as a success: `BUSY` ← 0, `DONE` ← 1 beside its writes (30_encoding.md R112), the hidden state released. -/
def State.succeed (s : State) : State :=
  { s with busy := false, done := true }.release

/-- A command that ends as a failure of kind e: error entry and nothing else, the hidden state released (30_encoding.md R112, 60_exceptions.md R255, R256). -/
def State.failWith (s : State) (e : ErrKind) : State :=
  (s.recordError e).release

/-- `Complete()` of 30_encoding.md R112: `r` is what `Exec` answered on s, the state with its writes or an error kind. -/
def complete (s : State) (r : Except ErrKind State) : Result :=
  match r with
  | .ok t => .next t.succeed
  | .error e => .next (s.failWith e)

/-- The reset event: the state of 10_state.md R49 whatever went before, a running command abandoned (70_reset_and_hazards.md R280, R282); the hidden state is unspecified and the host's own lists are not the block's (log 6, log 16). -/
def State.resetEvent (s : State) : State :=
  { State.reset with pending := s.pending, answers := s.answers, drawn := s.drawn }.release

end Sys2Proof.Machine
end

