-- ==== Sys2Proof/Machine/Operands.lean ====
section
/-! DEFINITION. The operands of the commands: range checks (40_field_arithmetic.md R130, 42_group_law.md R166), the point registers (10_state.md R34, R35). -/

namespace Sys2Proof.Machine

/-- `RangeCheck(regs)`: every operand is below `CP` (40_field_arithmetic.md R130). -/
def inRange (cp : Big) (regs : List Big) : Bool := regs.all fun r => decide (r < cp)

/-- What one input point adds to the range check: its coordinates when its tag is 0, nothing when it is 1 (10_state.md R34, 42_group_law.md R166). -/
def pointInRange (cp : Big) (inf : Bool) (x y : Big) : Bool := inf || inRange cp [x, y]

/-- The check that precedes the computation, failing with OperandRange (30_encoding.md R113). -/
def checked (ok : Bool) (r : Except ErrKind State) : Except ErrKind State :=
  if ok then r else .error .operandRange

/-- The value of a point register (INF, X, Y) (10_state.md R34). -/
def pointOf (inf : Bool) (x y : Big) : Point :=
  if inf then .infinity else .affine x.toNat y.toNat

/-- `PointP()` (10_state.md R34). -/
def State.pointP (s : State) : Point := pointOf s.pinf s.px s.py

/-- `PointQ()` (10_state.md R34). -/
def State.pointQ (s : State) : Point := pointOf s.qinf s.qx s.qy

/-- The value of R, as the host's `GETR` line reads it (10_state.md R34, 30_encoding.md R114). -/
def State.pointR (s : State) : Point := pointOf s.rinf s.rx s.ry

/-- Writing `FR` (10_state.md R32). -/
def State.writeFR (s : State) (v : Nat) : State := { s with fr := BitVec.ofNat 192 v }

/-- `WriteR(v)`: R in canonical form, zero coordinates beside `RINF` = 1 (10_state.md R35). -/
def State.writeR (s : State) (v : Point) : State :=
  match v with
  | .infinity => { s with rinf := true, rx := 0, ry := 0 }
  | .affine x y => { s with rinf := false, rx := BitVec.ofNat 192 x, ry := BitVec.ofNat 192 y }

/-- The range check of a point command on P alone: `CA`, and P's coordinates when P is affine (42_group_law.md R166). -/
def State.rangeP (s : State) : Bool := inRange s.cp [s.ca] && pointInRange s.cp s.pinf s.px s.py

/-- The range check of PADD: that of P, and Q's coordinates when Q is affine (42_group_law.md R166). -/
def State.rangePQ (s : State) : Bool := s.rangeP && pointInRange s.cp s.qinf s.qx s.qy

end Sys2Proof.Machine
end

