-- ==== Sys2Proof/Machine/FieldArith.lean ====
section
/-! DEFINITION. Field arithmetic (40_field_arithmetic.md): the pure functions of the units modadd and modmul, and MODADD, MODSUB, MODMUL, MODSQR. -/

namespace Sys2Proof.Machine

/-- `a mod m` of an integer, the residue in [0, m) also when a is negative (00_scope.md R12). -/
def imod (a : Int) (m : Nat) : Nat := (a % (m : Int)).toNat

/-- `fadd(a, b, p)` (40_field_arithmetic.md R131). -/
def fadd (a b p : Nat) : Nat := (a + b) % p

/-- `fsub(a, b, p)`: the integer difference, then mod (40_field_arithmetic.md R132). -/
def fsub (a b p : Nat) : Nat := imod ((a : Int) - (b : Int)) p

/-- `fmul(a, b, p)`: the exact product, then mod (40_field_arithmetic.md R133, R135). -/
def fmul (a b p : Nat) : Nat := (a * b) % p

/-- `fsqr(a, p)` (40_field_arithmetic.md R134). -/
def fsqr (a p : Nat) : Nat := fmul a a p

/-- MODADD (40_field_arithmetic.md R131). -/
def execModadd (s : State) : Result :=
  complete s (checked (inRange s.cp [s.fa, s.fb]) (.ok (s.writeFR (fadd s.fa.toNat s.fb.toNat s.cp.toNat))))

/-- MODSUB (40_field_arithmetic.md R132). -/
def execModsub (s : State) : Result :=
  complete s (checked (inRange s.cp [s.fa, s.fb]) (.ok (s.writeFR (fsub s.fa.toNat s.fb.toNat s.cp.toNat))))

/-- MODMUL (40_field_arithmetic.md R133). -/
def execModmul (s : State) : Result :=
  complete s (checked (inRange s.cp [s.fa, s.fb]) (.ok (s.writeFR (fmul s.fa.toNat s.fb.toNat s.cp.toNat))))

/-- MODSQR: `FB` is neither read nor checked (40_field_arithmetic.md R134). -/
def execModsqr (s : State) : Result :=
  complete s (checked (inRange s.cp [s.fa]) (.ok (s.writeFR (fsqr s.fa.toNat s.cp.toNat))))

end Sys2Proof.Machine
end

