-- ==== Sys2Proof/Machine/Inverse.lean ====
section
/-! DEFINITION. Modular inverse and division (41_modular_inverse.md): the unit modinv, MODINV, MODDIV. -/

namespace Sys2Proof.Machine

/-- The loop of the extended Euclidean construction of 41_modular_inverse.md R153: the last t0. The remainders strictly decrease, so `fuel` above r1 is never used up (70_reset_and_hazards.md R294, log 12). -/
def euclidLoop : (fuel r0 r1 : Nat) → (t0 t1 : Int) → Int
  | 0, _, _, t0, _ => t0
  | fuel + 1, r0, r1, t0, t1 =>
    if r1 = 0 then t0
    else euclidLoop fuel r1 (r0 % r1) t1 (t0 - ((r0 / r1 : Nat) : Int) * t1)

/-- `finv(b, p)`: fails unless gcd(b, p) = 1, else the r in [0, p) with b * r = 1 mod p (41_modular_inverse.md R150), computed by R153's construction (log 12). -/
def finv (b p : Nat) : Except ErrKind Nat :=
  if Nat.gcd b p = 1 then .ok (imod (euclidLoop (b + 1) p b 0 1) p) else .error .noModularInverse

/-- `fdiv(a, b, p)`: the inverse first, without looking at a, then one multiplication (41_modular_inverse.md R152). -/
def fdiv (a b p : Nat) : Except ErrKind Nat :=
  match finv b p with
  | .ok i => .ok (fmul a i p)
  | .error e => .error e

/-- A field result that may fail, written to `FR` on success. -/
def State.tryWriteFR (s : State) (r : Except ErrKind Nat) : Except ErrKind State :=
  match r with
  | .ok v => .ok (s.writeFR v)
  | .error e => .error e

/-- MODINV: `FA` is neither read nor checked (41_modular_inverse.md R151). -/
def execModinv (s : State) : Result :=
  complete s (checked (inRange s.cp [s.fb]) (s.tryWriteFR (finv s.fb.toNat s.cp.toNat)))

/-- MODDIV (41_modular_inverse.md R152). -/
def execModdiv (s : State) : Result :=
  complete s (checked (inRange s.cp [s.fa, s.fb]) (s.tryWriteFR (fdiv s.fa.toNat s.fb.toNat s.cp.toNat)))

end Sys2Proof.Machine
end

