-- ==== Sys2Proof/Machine/GroupLaw.lean ====
section
/-! DEFINITION. The group law (42_group_law.md): the units point_add and point_double, PADD, PDBL. -/

namespace Sys2Proof.Machine

/-- The point on the line of slope s through (x1, y1) that both formulas end in: rx from the sum of the two abscissas, then ry (42_group_law.md R167, R168). -/
def chordPoint (s x1 y1 xsum p : Nat) : Point :=
  let rx := imod ((s : Int) * s - xsum) p
  let ry := imod ((s : Int) * ((x1 : Int) - rx) - y1) p
  .affine rx ry

/-- `pdbl(P, a, p)` (42_group_law.md R167). -/
def pdbl (pt : Point) (a p : Nat) : Except ErrKind Point :=
  match pt with
  | .infinity => .ok .infinity
  | .affine x y =>
    if y = 0 then .ok .infinity
    else
      match fdiv ((3 * x * x + a) % p) ((2 * y) % p) p with
      | .error e => .error e
      | .ok s => .ok (chordPoint s x y (2 * x) p)

/-- `padd(P, Q, a, p)`, the tests of its second step in the order shown (42_group_law.md R168); equal x with unrelated y fails (R171). -/
def padd (pt qt : Point) (a p : Nat) : Except ErrKind Point :=
  match pt, qt with
  | .infinity, q => .ok q
  | .affine x y, .infinity => .ok (.affine x y)
  | .affine x1 y1, .affine x2 y2 =>
    if x1 = x2 then
      if y1 = y2 then pdbl (.affine x1 y1) a p
      else if (y1 + y2) % p = 0 then .ok .infinity
      else .error .noModularInverse
    else
      match fdiv (fsub y1 y2 p) (fsub x1 x2 p) p with
      | .error e => .error e
      | .ok s => .ok (chordPoint s x1 y1 (x1 + x2) p)

/-- A point result that may fail, written to R on success (10_state.md R35). -/
def State.tryWriteR (s : State) (r : Except ErrKind Point) : Except ErrKind State :=
  match r with
  | .ok v => .ok (s.writeR v)
  | .error e => .error e

/-- PADD (42_group_law.md R169). -/
def execPadd (s : State) : Result :=
  complete s (checked s.rangePQ (s.tryWriteR (padd s.pointP s.pointQ s.ca.toNat s.cp.toNat)))

/-- PDBL: Q is neither read nor checked (42_group_law.md R170). -/
def execPdbl (s : State) : Result :=
  complete s (checked s.rangeP (s.tryWriteR (pdbl s.pointP s.ca.toNat s.cp.toNat)))

end Sys2Proof.Machine
end

