-- ==== Sys2Proof/Machine/Registry.lean ====
section
/-! DEFINITION. The curve registry (44_curve_registry.md): the curve ROM and LDCURVE. -/

namespace Sys2Proof.Machine

/-- The eight fields of a ROM row (44_curve_registry.md R205). -/
structure CurveRow where
  p : Big
  a : Big
  b : Big
  gx : Big
  gy : Big
  n : Big
  h : Word
  keybits : Word
deriving DecidableEq, Repr

/-- ROM row 0, secp192k1 (44_curve_registry.md R205; the digits are the spec's, from general knowledge: log 11). -/
def secp192k1 : CurveRow where
  p := 0xFFFFFFFFFFFFFFFFFFFFFFFFFFFFFFFFFFFFFFFEFFFFEE37#192
  a := 0x000000000000000000000000000000000000000000000000#192
  b := 0x000000000000000000000000000000000000000000000003#192
  gx := 0xDB4FF10EC057E9AE26B07D0280B7F4341DA5D1B1EAE06C7D#192
  gy := 0x9B2F2F6D9C5628A7844163D015BE86344082AA88D95E2F9D#192
  n := 0xFFFFFFFFFFFFFFFFFFFFFFFE26F2FC170F69466A74DEFD8D#192
  h := 1#32
  keybits := 192#32

/-- ROM row 1, secp192r1 (44_curve_registry.md R205; the digits are the spec's, from general knowledge: log 11). -/
def secp192r1 : CurveRow where
  p := 0xFFFFFFFFFFFFFFFFFFFFFFFFFFFFFFFEFFFFFFFFFFFFFFFF#192
  a := 0xFFFFFFFFFFFFFFFFFFFFFFFFFFFFFFFEFFFFFFFFFFFFFFFC#192
  b := 0x64210519E59C80E70FA7E9AB72243049FEB8DEECC146B9B1#192
  gx := 0x188DA80EB03090F67CBF20EB43A18800F4FF0AFD82FF1012#192
  gy := 0x07192B95FFC8DA78631011ED6B24CDD573F977A11E794811#192
  n := 0xFFFFFFFFFFFFFFFFFFFFFFFF99DEF836146BC9B1B4D22831#192
  h := 1#32
  keybits := 192#32

/-- `RomRow(cid)`: rows 0 and 1, none for every other cid (20_memory.md R83, 44_curve_registry.md R205). -/
def romRow (cid : Nat) : Option CurveRow :=
  match cid with
  | 0 => some secp192k1
  | 1 => some secp192r1
  | _ => none

/-- The eight writes of LDCURVE, together (44_curve_registry.md R206). -/
def State.loadRow (s : State) (row : CurveRow) : State :=
  { s with
    cp := row.p, ca := row.a, cb := row.b, cgx := row.gx, cgy := row.gy, cn := row.n,
    cofactor := row.h, keybits := row.keybits }

/-- LDCURVE cid (44_curve_registry.md R206); a cid without a row fails with CurveConstructionError (R207). -/
def execLdcurve (cid : Nat) (s : State) : Result :=
  complete s
    (match romRow cid with
    | some row => .ok (s.loadRow row)
    | none => .error .curveConstructionError)

end Sys2Proof.Machine
end

