-- ==== Sys2Proof/Machine/ScalarMult.lean ====
section
/-! DEFINITION. Scalar multiplication (43_scalar_mult.md): the unit scalar_mult and SMUL. -/

namespace Sys2Proof.Machine

/-- `bitlen(v)` (00_scope.md R11). -/
def bitlen (v : Nat) : Nat := if v = 0 then 0 else Nat.log2 v + 1

/-- `v[i]` (00_scope.md R11). -/
def bitOf (v i : Nat) : Nat := (v / 2 ^ i) % 2

/-- `n` iterations of the loop of 43_scalar_mult.md R190 from bit `idx` upward: add the running point when the bit is 1, double it in all cases, the last iteration included (R195); the first failing operation ends the loop (R191). -/
def smulLoop : (n idx : Nat) → (acc run : Point) → (k a p : Nat) → Except ErrKind Point
  | 0, _, acc, _, _, _, _ => .ok acc
  | n + 1, idx, acc, run, k, a, p =>
    match (if bitOf k idx = 1 then padd acc run a p else .ok acc) with
    | .error e => .error e
    | .ok acc' =>
      match pdbl run a p with
      | .error e => .error e
      | .ok run' => smulLoop n (idx + 1) acc' run' k a p

/-- `smul(P, k, a, p)`: bitlen(k) iterations from bit 0 upward (43_scalar_mult.md R190, R192, R194), k not reduced (R193). -/
def smul (pt : Point) (k a p : Nat) : Except ErrKind Point :=
  smulLoop (bitlen k) 0 .infinity pt k a p

/-- SMUL: Q is neither read nor checked (43_scalar_mult.md R191). -/
def execSmul (s : State) : Result :=
  complete s (checked s.rangeP (s.tryWriteR (smul s.pointP s.k.toNat s.ca.toNat s.cp.toNat)))

end Sys2Proof.Machine
end

