-- ==== Sys2Proof/Machine/Port.lean ====
section
/-! DEFINITION. The host port (20_memory.md R70 to R79) and the issue of commands (30_encoding.md R110, R111). -/

namespace Sys2Proof.Machine

/-- The word index of a byte offset of the window (20_memory.md R70). -/
def wordAt (off : Nat) : WordIndex := Fin.ofNat 256 (off / 4)

/-- `base(REG)`, the offset of a big register's word 0 (20_memory.md R72). -/
def baseOf : BigReg → Nat
  | .cp => 0x020
  | .ca => 0x040
  | .cb => 0x060
  | .cgx => 0x080
  | .cgy => 0x0A0
  | .cn => 0x0C0
  | .fa => 0x0E0
  | .fb => 0x100
  | .fr => 0x120
  | .px => 0x140
  | .py => 0x160
  | .qx => 0x180
  | .qy => 0x1A0
  | .rx => 0x1C0
  | .ry => 0x1E0
  | .k => 0x200

/-- `BIGREGS`: the sixteen big registers with their offsets (20_memory.md R77). -/
def bigRegs : List (BigReg × Nat) :=
  [.cp, .ca, .cb, .cgx, .cgy, .cn, .fa, .fb, .fr, .px, .py, .qx, .qy, .rx, .ry, .k].map fun r => (r, baseOf r)

/-- The host may write the register: access RW; `FR`, `RX`, `RY` are RO (20_memory.md R72). -/
def BigReg.hostWritable : BigReg → Bool
  | .fr | .rx | .ry => false
  | .cp | .ca | .cb | .cgx | .cgy | .cn | .fa | .fb | .px | .py | .qx | .qy | .k => true

/-- `RWBIG`: the thirteen big registers whose access is RW (20_memory.md R78). -/
def rwBig : List (BigReg × Nat) := bigRegs.filter fun rb => rb.1.hostWritable

/-- The big register and word j that offset `off` falls in: b ≤ off ≤ b + 0x14, j = (off - b) div 4 (20_memory.md R77, R78). -/
def locate (regs : List (BigReg × Nat)) (off : Nat) : Option (BigReg × Nat) :=
  match regs with
  | [] => none
  | (r, b) :: rest => if b ≤ off ∧ off ≤ b + 0x14 then some (r, (off - b) / 4) else locate rest off

/-- `HostRead(off)` with off = 4 * w (20_memory.md R77): it changes no state. -/
def hostRead (w : WordIndex) (s : State) : Word :=
  let off := 4 * w.val
  if off = 0x000 then 0
  else if off = 0x004 then statusWord s
  else if off = 0x008 then pflagsWord s
  else if off = 0x00C then s.keybits
  else if off = 0x010 then s.cofactor
  else
    match locate bigRegs off with
    | some (r, j) => bigWord (s.big r) j
    | none => 0

/-- `Issue(c)`, called with `BUSY` = 0 (30_encoding.md R110): dropped while `ERR` = 1, an illegal word recorded as IllegalCommand (R111), a legal one accepted. -/
def issue (c : Word) (s : State) : State :=
  if s.err then s
  else
    match decode c with
    | .error _ => s.recordError .illegalCommand
    | .ok _ => s.accept c

/-- `HostWrite(off, v)` with off = 4 * w (20_memory.md R78). -/
def hostWrite (w : WordIndex) (v : Word) (s : State) : State :=
  let off := 4 * w.val
  if off = 0x004 then s.clearError v
  else if s.busy then s
  else if off = 0x000 then issue v s
  else if off = 0x008 then writePflags v s
  else if off = 0x00C then { s with keybits := v }
  else if off = 0x010 then { s with cofactor := v }
  else
    match locate rwBig off with
    | some (r, j) => s.setBig r (setBigWord (s.big r) j v)
    | none => s

/-- A host read as an event: the value goes to the host, no register changes (20_memory.md R77, log 5). -/
def State.answerRead (s : State) (w : WordIndex) : State :=
  { s with answers := s.answers ++ [hostRead w s] }

end Sys2Proof.Machine
end

