-- ==== Sys2Proof/Machine/Step.lean ====
section
/-! DEFINITION. One step: the next event at the block takes effect (20_memory.md R84), or, with no event listed, the engine takes its step if it has one (70_reset_and_hazards.md R294, R296; log 2, log 3). -/

namespace Sys2Proof.Machine

/-- The engine's turn: `Complete()` when `BUSY` = 1 (30_encoding.md R112), nothing when `BUSY` = 0 (00_scope.md R20, log 4). -/
def engineTurn (s : State) : Host.Outcome State Fault Refusal :=
  if s.busy then
    match decode s.cur with
    | .ok i => exec i s
    | .error _ => .fault .curNotACommand
  else .next s

/-- One event takes effect. -/
def takeEvent (e : Event) (s : State) : Host.Outcome State Fault Refusal :=
  match e with
  | .hostRead w => .next (s.answerRead w)
  | .hostWrite w v => .next (hostWrite w v s)
  | .reset => .next s.resetEvent
  | .engine => engineTurn s

/-- One step of the machine. -/
def step (s : State) : Host.Outcome State Fault Refusal :=
  match s.pending with
  | [] => engineTurn s
  | e :: rest => takeEvent e { s with pending := rest }

/-- The state in which the very next step runs the command word w: accepted (`CUR`, `BUSY`, `DONE` as 30_encoding.md R110 leaves them, and no error pending, as 10_state.md R47 has it while `BUSY` = 1), and the engine's turn first (log 1). -/
def State.withFetchWord (s : State) (nbits w : Nat) : State :=
  { s with
    cur := BitVec.ofNat 32 (w % 2 ^ nbits), busy := true, done := false, err := false, errcode := 0,
    pending := .engine :: s.pending }

end Sys2Proof.Machine
end

