-- ==== Sys2Proof/Machine/Codec.lean ====
section
/-! DEFINITION. The host's codec of points (45_host_procedures.md R221 to R224): software outside the block, on strings held as lists of characters. -/

namespace Sys2Proof.Machine

/-- Why a host procedure ends without a value (45_host_procedures.md R220, R231). No procedure here ends with MemoryExhaustion: R231 names the kind and no step that raises it, and a host with the memory it needs is the model's choice (log 24). -/
inductive ProcFailure where
  /-- A failure of one of the kinds of 60_exceptions.md R251, raised by the host or reported by the block, under its code. Safe. -/
  | failed (code : BitVec 4)
  /-- The source defines no result here: `encode(Infinity)`, a key pair whose public point is the identity, a `KEYBITS` that is no number of bytes or over 192, or an entropy oracle with no further answer (93_implementation_defined.md U4, U7; log 19, log 20). Safe. -/
  | noDefinedResult
  /-- The machine stopped during a `WAIT`, which no reachable state does (log 10). Safe. -/
  | machineStopped
deriving DecidableEq, Repr

/-- One hexadecimal digit, lower case (45_host_procedures.md R222). -/
def hexDigit (d : Nat) : Char :=
  match d with
  | 0 => '0' | 1 => '1' | 2 => '2' | 3 => '3' | 4 => '4' | 5 => '5' | 6 => '6' | 7 => '7'
  | 8 => '8' | 9 => '9' | 10 => 'a' | 11 => 'b' | 12 => 'c' | 13 => 'd' | 14 => 'e' | _ => 'f'

/-- The value of a hexadecimal digit of either case (45_host_procedures.md R222, R223). -/
def hexValue (c : Char) : Option Nat :=
  let n := c.toNat
  if 48 ≤ n ∧ n ≤ 57 then some (n - 48)
  else if 97 ≤ n ∧ n ≤ 102 then some (n - 87)
  else if 65 ≤ n ∧ n ≤ 70 then some (n - 55)
  else none

/-- x as exactly n hexadecimal digits, most significant first, with leading zeros (45_host_procedures.md R221). Of an x that needs more digits, on which R221 is silent, the last n are written: the model's choice (log 23). -/
def hexDigits : (n x : Nat) → List Char
  | 0, _ => []
  | n + 1, x => hexDigits n (x / 16) ++ [hexDigit (x % 16)]

/-- `L` = ceil(bitlen(p) / 8) (45_host_procedures.md R221). -/
def fieldBytes (p : Nat) : Nat := (bitlen p + 7) / 8

/-- `encode(point)` under the prime p; the identity has no encoding (45_host_procedures.md R221, R222); for a coordinate of 256^L or more see `hexDigits` (log 23). -/
def encodePoint (p : Nat) (v : Point) : Except ProcFailure (List Char) :=
  match v with
  | .infinity => .error .noDefinedResult
  | .affine x y => .ok ('0' :: '4' :: (hexDigits (2 * fieldBytes p) x ++ hexDigits (2 * fieldBytes p) y))

/-- The values of the digits of a string, none when a character is no hexadecimal digit. -/
def hexValues : List Char → Option (List Nat)
  | [] => some []
  | c :: cs =>
    match hexValue c, hexValues cs with
    | some d, some ds => some (d :: ds)
    | _, _ => none

/-- The value of a numeral, most significant digit first. -/
def numeral (ds : List Nat) : Nat := ds.foldl (fun acc d => acc * 16 + d) 0

/-- `decode(hex string)` (45_host_procedures.md R223). -/
def decodePoint (str : List Char) : Except ErrKind Point :=
  match str with
  | '0' :: '4' :: d =>
    match hexValues d with
    | none => .error .invalidEncoding
    | some ds =>
      if ds.length % 2 = 1 ∨ ds.length = 0 then .error .invalidEncoding
      else
        let h := ds.length / 2
        let x := numeral (ds.take h)
        let y := numeral (ds.drop h)
        if 2 ^ 192 ≤ x ∨ 2 ^ 192 ≤ y then .error .invalidEncoding
        else .ok (.affine x y)
  | _ => .error .invalidEncoding

/-- A user's curve literal as the host parses it before writing a curve register: malformed hexadecimal is the host's CurveConstructionError (45_host_procedures.md R231; an empty literal counts as malformed: log 20). A literal of 2^192 or more, on which R231 is silent, is well-formed hexadecimal and has its whole value: the model's choice (log 25). Which spellings are well formed R231 does not say: digits of either case and nothing else, so no 0x prefix, sign, space or separator, is the model's choice (log 26). -/
def curveLiteral (str : List Char) : Except ErrKind Nat :=
  match hexValues str with
  | none => .error .curveConstructionError
  | some [] => .error .curveConstructionError
  | some (d :: ds) => .ok (numeral (d :: ds))

end Sys2Proof.Machine
end

