-- ==== Sys2Proof/Machine/Script.lean ====
section
/-! DEFINITION. The host script notation (30_encoding.md R114) as functions on the state: each line is the transactions of its expansion, taken through the host port; `WAIT` lets the engine take its step (log 18). -/

namespace Sys2Proof.Machine

/-- `WR off, v`. -/
def wr (off : Nat) (v : Word) (s : State) : State := hostWrite (wordAt off) v s

/-- `RD off`. -/
def rd (off : Nat) (s : State) : Word := hostRead (wordAt off) s

/-- `WAIT`: `STATUS` is read until `BUSY` = 0, and the engine's completion step happens during this line. -/
def wait (s : State) : Result := engineTurn s

/-- `CMD mnemonic`. -/
def cmd (i : Instr) (s : State) : State := wr 0x000 (encode i) s

/-- `RUN mnemonic`. -/
def runCmd (i : Instr) (s : State) : Result := wait (cmd i s)

/-- The first n of the six writes of `WRBIG REG, v`, most significant word first. -/
def wrbigWords (r : BigReg) (v : Big) : Nat → State → State
  | 0, s => s
  | n + 1, s => wr (baseOf r + 4 * n) (bigWord v n) (wrbigWords r v n s)

/-- `WRBIG REG, v`. -/
def wrbig (r : BigReg) (v : Big) (s : State) : State := wrbigWords r v 6 s

/-- The value of the first n words read at a register's offsets, the first the most significant. -/
def rdbigWords (r : BigReg) (s : State) : Nat → Nat
  | 0 => 0
  | n + 1 => rdbigWords r s n * 2 ^ 32 + (rd (baseOf r + 4 * n) s).toNat

/-- `RDBIG REG`: six reads, assembled by 20_memory.md R73. -/
def rdbig (r : BigReg) (s : State) : Big := BitVec.ofNat 192 (rdbigWords r s 6)

/-- Bit i of a word read, as 0 or 1. -/
def bitVal (f : Word) (i : Nat) : Nat := (f.getLsbD i).toNat

/-- `SETP v`; of a coordinate of 2^192 or more the low 192 bits reach the register (log 25). -/
def setP (v : Point) (s : State) : State :=
  match v with
  | .affine x y =>
    let s := wrbig .py (BitVec.ofNat 192 y) (wrbig .px (BitVec.ofNat 192 x) s)
    wr 0x008 (BitVec.ofNat 32 (bitVal (rd 0x008 s) 1 * 2)) s
  | .infinity => wr 0x008 (BitVec.ofNat 32 (bitVal (rd 0x008 s) 1 * 2 + 1)) s

/-- `SETQ v`; of a coordinate of 2^192 or more the low 192 bits reach the register (log 25). -/
def setQ (v : Point) (s : State) : State :=
  match v with
  | .affine x y =>
    let s := wrbig .qy (BitVec.ofNat 192 y) (wrbig .qx (BitVec.ofNat 192 x) s)
    wr 0x008 (BitVec.ofNat 32 (bitVal (rd 0x008 s) 0)) s
  | .infinity => wr 0x008 (BitVec.ofNat 32 (bitVal (rd 0x008 s) 0 + 2)) s

/-- `GETR`. -/
def getR (s : State) : Point :=
  if (rd 0x008 s).getLsbD 2 then .infinity
  else .affine (rdbig .rx s).toNat (rdbig .ry s).toNat

/-- `CLRERR`. -/
def clrErr (s : State) : State := wr 0x004 0x00000004#32 s

end Sys2Proof.Machine
end

