-- ==== Sys2Proof/Machine/KeyExchange.lean ====
section
/-! DEFINITION. The host programs of the key exchange (45_host_procedures.md R225 to R227), run against the block through the script lines. -/

namespace Sys2Proof.Machine

/-- The host parameter `SAMPLING` (45_host_procedures.md R226; log 19). -/
inductive Sampling where
  | bitlength
  | rejection
deriving DecidableEq, Repr

/-- The big-endian value of a byte string (45_host_procedures.md R225). -/
def bytesValue (bs : List (BitVec 8)) : Nat := bs.foldl (fun acc b => acc * 256 + b.toNat) 0

/-- The private scalar from the entropy oracle's answers in order, `none` an answer it could not give: no short read is accepted (45_host_procedures.md R225, R231), and under `rejection` draws outside [1, n - 1] are repeated (R226). -/
def drawScalar (sampling : Sampling) (nbytes n : Nat) : List (Option (List (BitVec 8))) → Except ProcFailure Nat
  | [] => .error .noDefinedResult
  | none :: _ => .error (.failed ErrKind.entropyUnavailable.code)
  | some bs :: rest =>
    if bs.length ≠ nbytes then .error (.failed ErrKind.entropyUnavailable.code)
    else
      match sampling with
      | .bitlength => .ok (bytesValue bs)
      | .rejection =>
        if 1 ≤ bytesValue bs ∧ bytesValue bs + 1 ≤ n then .ok (bytesValue bs)
        else drawScalar sampling nbytes n rest

/-- `SETP v; WRBIG K, d; RUN SMUL; GETR`, an error the block reports being passed on under its code (45_host_procedures.md R220, R225, R227). Of a d of 2^192 or more the low 192 bits reach `K` (log 25). -/
def multiplyPoint (v : Point) (d : Nat) (s : State) : Except ProcFailure (Point × State) :=
  match runCmd .smul (wrbig .k (BitVec.ofNat 192 d) (setP v s)) with
  | .next t =>
    if (rd 0x004 t).getLsbD 2 then .error (.failed ((rd 0x004 t).extractLsb' 8 4))
    else .ok (getR t, t)
  | .fault _ => .error .machineStopped
  | .refused _ => .error .machineStopped

/-- `generate_key_pair()`: the private scalar, its public point, and the state it leaves (45_host_procedures.md R225). A public point that came out as the identity (`RINF` = 1) leaves no defined result (R222; 93_implementation_defined.md U4). -/
def generateKeyPair (sampling : Sampling) (draws : List (Option (List (BitVec 8)))) (s : State) :
    Except ProcFailure (Nat × Point × State) :=
  let kb := (rd 0x00C s).toNat
  if kb % 8 ≠ 0 ∨ 192 < kb then .error .noDefinedResult
  else
    match drawScalar sampling (kb / 8) (rdbig .cn s).toNat draws with
    | .error e => .error e
    | .ok d =>
      match multiplyPoint (.affine (rdbig .cgx s).toNat (rdbig .cgy s).toNat) d s with
      | .error e => .error e
      | .ok (.infinity, _) => .error .noDefinedResult
      | .ok (.affine x y, t) => .ok (d, .affine x y, t)

/-- `derive_shared_secret(d, peer)`: the encoding of the full point, and the state it leaves (45_host_procedures.md R227). -/
def deriveSharedSecret (d : Nat) (peer : List Char) (s : State) : Except ProcFailure (List Char × State) :=
  match decodePoint peer with
  | .error e => .error (.failed e.code)
  | .ok v =>
    match multiplyPoint v d s with
    | .error e => .error e
    | .ok (shared, t) =>
      match encodePoint (rdbig .cp t).toNat shared with
      | .error e => .error e
      | .ok str => .ok (str, t)

end Sys2Proof.Machine
end

