-- ==== Sys2Proof/Safety.lean ====
section
/-! DEFINITION. What a safe run is, and the invariant of the block that every step keeps. -/

namespace Sys2Proof.Machine

/-- The invariants of the status bits (10_state.md R47). -/
def StatusLegal (s : State) : Prop :=
  (s.busy = true → s.err = false ∧ s.done = false) ∧
  (s.err = true → s.busy = false ∧ s.done = true ∧
    (s.errcode = 3 ∨ s.errcode = 5 ∨ s.errcode = 6 ∨ s.errcode = 7)) ∧
  (s.err = false → s.errcode = 0)

/-- Only legal words are accepted (30_encoding.md R110), so a running command's word decodes. -/
def CurLegal (s : State) : Prop := s.busy = true → ∃ i, decode s.cur = .ok i

/-- R is held in canonical form (10_state.md R35). -/
def ResultCanonical (s : State) : Prop := s.rinf = true → s.rx = 0 ∧ s.ry = 0

/-- The invariant of the block. -/
structure Inv (s : State) : Prop where
  status : StatusLegal s
  cur : CurLegal s
  result : ResultCanonical s

/-- A point value whose coordinates, if it has any, lie in [0, p) (40_field_arithmetic.md R130). -/
def InField (p : Nat) (v : Point) : Prop :=
  match v with
  | .infinity => True
  | .affine x y => x < p ∧ y < p

/-- A safe run: no number of steps stops with a fault or a refusal (60_exceptions.md R260). -/
def NeverStops (s : State) : Prop :=
  ∀ n, ∃ t : State, Host.Core.run Sys2Proof.core n s = .next t

/-- Two states the host cannot tell apart: equal but for the hidden registers (10_state.md R44), `CUR` counting only while a command runs, and for the count of free values. -/
structure SameVisible (s t : State) : Prop where
  shown : { s with cur := t.cur, hidden := t.hidden, drawn := t.drawn } = t
  cur : s.busy = true → s.cur = t.cur

end Sys2Proof.Machine
end

