-- ==== Sys2Proof/Certificates/Slice0/Obligations.lean ====
section
/-! DEFINITION. The statements about the model, from the spec's numbered rules, in the order of spec/: encoding, reset and invariants, the step, the host port, errors, each command's result, the group law, frames, host software. -/

namespace Sys2Proof.Stated

open Sys2Proof.Machine

/-- The six field commands (40_field_arithmetic.md, 41_modular_inverse.md). -/
def IsFieldCommand (i : Instr) : Prop :=
  i = .modadd ∨ i = .modsub ∨ i = .modmul ∨ i = .modsqr ∨ i = .modinv ∨ i = .moddiv

/-- The three point commands (42_group_law.md, 43_scalar_mult.md). -/
def IsPointCommand (i : Instr) : Prop := i = .padd ∨ i = .pdbl ∨ i = .smul

/-- The offset table of the big registers (20_memory.md R72). -/
def offsetTable : List (BigReg × Nat) :=
  [(.cp, 0x020), (.ca, 0x040), (.cb, 0x060), (.cgx, 0x080), (.cgy, 0x0A0), (.cn, 0x0C0), (.fa, 0x0E0), (.fb, 0x100),
   (.fr, 0x120), (.px, 0x140), (.py, 0x160), (.qx, 0x180), (.qy, 0x1A0), (.rx, 0x1C0), (.ry, 0x1E0), (.k, 0x200)]

/-- The reserved offsets (20_memory.md R79): 0x014 to 0x01C, the two words after each big register, 0x218 to 0x3FC. -/
def reservedOffset (off : Nat) : Prop :=
  (0x014 ≤ off ∧ off ≤ 0x01C) ∨ (0x218 ≤ off ∧ off ≤ 0x3FC) ∨
    ∃ r b, (r, b) ∈ offsetTable ∧ (off = b + 0x18 ∨ off = b + 0x1C)

/-- The curve of the curve registers over the integers mod `CP`: y² = x³ + a·x + b (00_scope.md R22). -/
def curveOf (s : State) : WeierstrassCurve.Affine (ZMod s.cp.toNat) :=
  { a₁ := 0, a₂ := 0, a₃ := 0, a₄ := (s.ca.toNat : ZMod s.cp.toNat), a₆ := (s.cb.toNat : ZMod s.cp.toNat) }

/-- The point value v stands for the point X of the curve: Infinity for the identity, coordinates in [0, `CP`) for an affine point. -/
def Represents (s : State) (v : Point) (X : (curveOf s).Point) : Prop :=
  match v with
  | .infinity => X = 0
  | .affine x y => x < s.cp.toNat ∧ y < s.cp.toNat ∧
      ∃ h, X = WeierstrassCurve.Affine.Point.some (x : ZMod s.cp.toNat) (y : ZMod s.cp.toNat) h

/-- The shift-and-add loop of 40_field_arithmetic.md R135, from bit n - 1 of b down to bit 0. -/
def shiftAndAdd (a b p : Nat) : (n r : Nat) → Nat
  | 0, r => r
  | n + 1, r =>
    let r2 := (r + r) % p
    shiftAndAdd a b p n (if (b / 2 ^ n) % 2 = 1 then (r2 + a) % p else r2)

/-- The rx, ry that the slope sl gives from (x1, y1) and the sum of the two abscissas (42_group_law.md R167, R168). -/
def lineResult (sl x1 y1 xsum p : Int) : Int × Int :=
  let rx := (sl * sl - xsum) % p
  (rx, (sl * (x1 - rx) - y1) % p)

end Sys2Proof.Stated

open Sys2Proof Sys2Proof.Machine Sys2Proof.Stated

/-! ### Encoding -/

/-- Words written out from 30_encoding.md R103 and R105 decode as they should: one per row, LDCURVE at CID 0, 1, 2, 255, and the words the spec lists as illegal (95_test_vectors.md V-DE-1, V-DE-2). -/
def Obligations.WrittenWordsDecode : Prop :=
  decode 0x00000001#32 = .ok .modadd ∧ decode 0x00000002#32 = .ok .modsub ∧ decode 0x00000003#32 = .ok .modmul ∧
  decode 0x00000004#32 = .ok .modsqr ∧ decode 0x00000005#32 = .ok .modinv ∧ decode 0x00000006#32 = .ok .moddiv ∧
  decode 0x00000010#32 = .ok .padd ∧ decode 0x00000011#32 = .ok .pdbl ∧ decode 0x00000012#32 = .ok .smul ∧
  decode 0x00000020#32 = .ok (.ldcurve 0) ∧ decode 0x00000120#32 = .ok (.ldcurve 1) ∧
  decode 0x00000220#32 = .ok (.ldcurve 2) ∧ decode 0x0000FF20#32 = .ok (.ldcurve 255) ∧
  ∀ c ∈ [0x00000000#32, 0x00000007#32, 0x0000000F#32, 0x00000013#32, 0x00000021#32, 0x000000FF#32, 0x00000101#32,
    0x00000112#32, 0x00010001#32, 0x80000012#32, 0x00010020#32], ∃ e, decode c = .error e

/-- Decoding an encoded well-formed command gives it back, LDCURVE at every CID. -/
def Obligations.DecodeOfEncodeIsTheCommand : Prop :=
  ∀ i : Instr, i.wellFormed = true → decode (encode i) = .ok i

/-- A word that decodes is the encoding of what it decodes to, and that command is well formed: no second word stands for a command. -/
def Obligations.EncodeOfDecodeIsTheWord : Prop :=
  ∀ (c : Word) (i : Instr), decode c = .ok i → i.wellFormed = true ∧ encode i = c

/-- 30_encoding.md R103: a word selects a row exactly when `c AND mask = match`, with the table's masks and matches; for LDCURVE the CID is c[15:8]. -/
def Obligations.DecodeFollowsTheOpcodeTable : Prop :=
  ∀ c : Word,
    (decode c = .ok .modadd ↔ c &&& 0xFFFFFFFF#32 = 0x00000001#32) ∧
    (decode c = .ok .modsub ↔ c &&& 0xFFFFFFFF#32 = 0x00000002#32) ∧
    (decode c = .ok .modmul ↔ c &&& 0xFFFFFFFF#32 = 0x00000003#32) ∧
    (decode c = .ok .modsqr ↔ c &&& 0xFFFFFFFF#32 = 0x00000004#32) ∧
    (decode c = .ok .modinv ↔ c &&& 0xFFFFFFFF#32 = 0x00000005#32) ∧
    (decode c = .ok .moddiv ↔ c &&& 0xFFFFFFFF#32 = 0x00000006#32) ∧
    (decode c = .ok .padd ↔ c &&& 0xFFFFFFFF#32 = 0x00000010#32) ∧
    (decode c = .ok .pdbl ↔ c &&& 0xFFFFFFFF#32 = 0x00000011#32) ∧
    (decode c = .ok .smul ↔ c &&& 0xFFFFFFFF#32 = 0x00000012#32) ∧
    (∀ cid, decode c = .ok (.ldcurve cid) ↔ c &&& 0xFFFF00FF#32 = 0x00000020#32 ∧ cid = (c.toNat / 256) % 256)

/-- 30_encoding.md R105: the illegal words are exactly those with a bit of 31:16 set, a non-zero `IMM` on a command other than LDCURVE, or an opcode outside the ten; writing one to `CMD` (idle, no error) records IllegalCommand and does nothing else. -/
def Obligations.IllegalWordsAreExactlyTheRest : Prop :=
  (∀ c : Word, (∃ e, decode c = .error e) ↔
    (c.toNat / 2 ^ 16 ≠ 0 ∨ ((c.toNat / 256) % 256 ≠ 0 ∧ c.toNat % 256 ≠ 0x20) ∨
      c.toNat % 256 ∉ [0x01, 0x02, 0x03, 0x04, 0x05, 0x06, 0x10, 0x11, 0x12, 0x20])) ∧
  (∀ (c : Word) (s : State), (∃ e, decode c = .error e) → s.busy = false → s.err = false →
    hostWrite (wordAt 0x000) c s = { s with err := true, errcode := 7, done := true })

/-! ### Reset and invariants -/

/-- 70_reset_and_hazards.md R281, R282: a reset in any state, also while a command runs, leaves every register, tag and status bit 0, and the command is abandoned; that the lists `pending` and `answers` are kept is the model's choice (log 16; the lists are those of logs 2 and 5). -/
def Obligations.ResetClearsEverything : Prop :=
  ∀ (s : State) (rest : List Event), s.pending = .reset :: rest →
    ∃ t, step s = .next t ∧ (∀ r, t.big r = 0) ∧ t.keybits = 0 ∧ t.cofactor = 0 ∧
      t.pinf = false ∧ t.qinf = false ∧ t.rinf = false ∧
      t.busy = false ∧ t.done = false ∧ t.err = false ∧ t.errcode = 0 ∧
      (∀ w, hostRead w t = 0) ∧ t.pending = rest ∧ t.answers = s.answers

/-- The state after reset meets the invariant. -/
def Obligations.ResetMeetsTheInvariant : Prop := Inv State.reset

/-- Every step keeps the invariant: the status bits stay legal (10_state.md R47), a running command's word is a command, R stays canonical (10_state.md R35). -/
def Obligations.EveryStepKeepsTheInvariant : Prop :=
  ∀ s t : State, Inv s → step s = .next t → Inv t

/-- 10_state.md R47, in every state any sequence of host transactions, resets and engine turns reaches from reset; the list of events is the model's (log 2), and no clause rests on what State.reset holds in the hidden registers (log 7). -/
def Obligations.StatusLegalInEveryReachableState : Prop :=
  ∀ (events : List Event) (n : Nat) (t : State),
    Host.Core.run Sys2Proof.core n { State.reset with pending := events } = .next t →
    (t.busy = true → t.err = false ∧ t.done = false) ∧
    (t.err = true → t.busy = false ∧ t.done = true ∧ (t.errcode = 3 ∨ t.errcode = 5 ∨ t.errcode = 6 ∨ t.errcode = 7)) ∧
    (t.err = false → t.errcode = 0)

/-- The block never stops: from every state that meets the invariant, no number of steps ends in a fault or a refusal (60_exceptions.md R260). -/
def Obligations.LegalStatesNeverStop : Prop := ∀ s : State, Inv s → NeverStops s

/-- A command never runs forever: once the events listed have taken effect and the engine has had one more turn, the block is idle (70_reset_and_hazards.md R294, R296; that the engine has its turn when no event is listed is the model's choice, logs 2 and 3). -/
def Obligations.BusyEnds : Prop :=
  ∀ s : State, Inv s →
    ∃ t : State, Host.Core.run Sys2Proof.core (s.pending.length + 1) s = .next t ∧ t.busy = false ∧ t.pending = []

/-- The hidden registers are unobservable: two states that differ in them alone (`CUR` too while idle) take steps to states that again differ in them alone, so no host read ever tells them apart (10_state.md R44; the free values of the hidden registers: log 6). -/
def Obligations.HiddenStateIsUnobservable : Prop :=
  ∀ s t s' : State, SameVisible s t → step s = .next s' → ∃ t', step t = .next t' ∧ SameVisible s' t'

/-! ### The step -/

/-- The engine's turn runs the decoded command: with `BUSY` = 1 and `CUR` a command i, the step is `exec i`, both when the turn is the next event and when no event is listed (30_encoding.md R112; the list of events is the model's, logs 2 and 3). -/
def Obligations.EngineTurnRunsTheDecodedCommand : Prop :=
  ∀ (s : State) (i : Instr), s.busy = true → decode s.cur = .ok i →
    (s.pending = [] → step s = exec i s) ∧
    (∀ rest, s.pending = .engine :: rest → step s = exec i { s with pending := rest })

/-- The state `withFetchWord` makes runs the word it is given as its very next step (the model's way to place a command: log 1). -/
def Obligations.FetchWordRunsTheCommand : Prop :=
  ∀ (s : State) (i : Instr), i.wellFormed = true →
    step (s.withFetchWord 32 (encode i).toNat) =
      exec i { s with cur := encode i, busy := true, done := false, err := false, errcode := 0 }

/-- A command's life cycle: written to `CMD` while idle with no error, and then the engine's turn, it is run on the registers as they were at issue (30_encoding.md R109, R110, R112). -/
def Obligations.IssuedCommandIsRun : Prop :=
  ∀ (s : State) (i : Instr) (rest : List Event), i.wellFormed = true → s.busy = false → s.err = false →
    s.pending = .hostWrite (wordAt 0x000) (encode i) :: .engine :: rest →
    ∃ t : State, step s = .next t ∧ t.busy = true ∧ t.done = false ∧
      step t = exec i { s with cur := encode i, busy := true, done := false, pending := rest }

/-! ### The host port -/

/-- 20_memory.md R77: what each offset reads, in any state, and that a read changes no register, tag or status bit; that the value read is appended to `answers`, in a step that takes the head of `pending`, is the model's choice (logs 2 and 5). -/
def Obligations.HostReadReturnsTheRegisters : Prop :=
  ∀ s : State,
    hostRead (wordAt 0x000) s = 0 ∧
    (hostRead (wordAt 0x004) s).toNat = s.busy.toNat + 2 * s.done.toNat + 4 * s.err.toNat + 256 * s.errcode.toNat ∧
    (hostRead (wordAt 0x008) s).toNat = s.pinf.toNat + 2 * s.qinf.toNat + 4 * s.rinf.toNat ∧
    hostRead (wordAt 0x00C) s = s.keybits ∧
    hostRead (wordAt 0x010) s = s.cofactor ∧
    (∀ r b, (r, b) ∈ offsetTable → ∀ j, j < 6 →
      hostRead (wordAt (b + 4 * j)) s = (s.big r).extractLsb' (160 - 32 * j) 32) ∧
    (∀ w : WordIndex, reservedOffset (4 * w.val) → hostRead w s = 0) ∧
    (∀ w rest, s.pending = .hostRead w :: rest →
      step s = .next { s with pending := rest, answers := s.answers ++ [hostRead w s] })

/-- 20_memory.md R73: word j of a big register holds bits [191 - 32*j : 160 - 32*j], the lowest offset the most significant, and the register is the sum of its words' values at those weights. -/
def Obligations.BigRegistersAreBigEndianWords : Prop :=
  ∀ (s : State) (r : BigReg) (b : Nat), (r, b) ∈ offsetTable →
    (∀ j, j < 6 → (hostRead (wordAt (b + 4 * j)) s).toNat = (s.big r).toNat / 2 ^ (160 - 32 * j) % 2 ^ 32) ∧
    (s.big r).toNat = ∑ j ∈ Finset.range 6, (hostRead (wordAt (b + 4 * j)) s).toNat * 2 ^ (32 * (5 - j))

/-- A host write to word j of a writable big register while idle: that word reads back as written, every other word of the window reads as before, and nothing but that register changes (20_memory.md R78). -/
def Obligations.HostWriteStoresOneWord : Prop :=
  ∀ (s : State) (r : BigReg) (b j : Nat) (v : Word), (r, b) ∈ offsetTable → r ≠ .fr → r ≠ .rx → r ≠ .ry → j < 6 →
    s.busy = false →
    hostRead (wordAt (b + 4 * j)) (hostWrite (wordAt (b + 4 * j)) v s) = v ∧
    (∀ w : WordIndex, 4 * w.val ≠ b + 4 * j → hostRead w (hostWrite (wordAt (b + 4 * j)) v s) = hostRead w s) ∧
    ∃ x : Big, hostWrite (wordAt (b + 4 * j)) v s = s.setBig r x

/-- Host writes to the one-word registers while idle: `PFLAGS` takes bits 0 and 1 and keeps `RINF`, `KEYBITS` and `COFACTOR` take the whole word; nothing else changes (20_memory.md R78, 10_state.md R46). -/
def Obligations.HostWriteStoresTagsAndSizes : Prop :=
  ∀ (s : State) (v : Word), s.busy = false →
    hostWrite (wordAt 0x008) v s = { s with pinf := v.getLsbD 0, qinf := v.getLsbD 1 } ∧
    hostRead (wordAt 0x008) (hostWrite (wordAt 0x008) v s) = (v &&& 3#32) ||| (hostRead (wordAt 0x008) s &&& 4#32) ∧
    hostWrite (wordAt 0x00C) v s = { s with keybits := v } ∧
    hostWrite (wordAt 0x010) v s = { s with cofactor := v }

/-- 20_memory.md R79: a reserved offset reads as 0 and ignores writes, in every state. -/
def Obligations.ReservedOffsetsAreInert : Prop :=
  ∀ (s : State) (w : WordIndex) (v : Word), reservedOffset (4 * w.val) → hostRead w s = 0 ∧ hostWrite w v s = s

/-- 70_reset_and_hazards.md R287: the dropped writes (any offset but `STATUS` while busy, `CMD` while `ERR` = 1, a read-only or reserved offset) change nothing. -/
def Obligations.DroppedWritesAreSilent : Prop :=
  ∀ (s : State) (w : WordIndex) (v : Word),
    (s.busy = true → 4 * w.val ≠ 0x004 → hostWrite w v s = s) ∧
    (s.err = true → 4 * w.val = 0x000 → hostWrite w v s = s) ∧
    ((∃ r b j, (r, b) ∈ offsetTable ∧ (r = .fr ∨ r = .rx ∨ r = .ry) ∧ j < 6 ∧ 4 * w.val = b + 4 * j) →
      hostWrite w v s = s) ∧
    (reservedOffset (4 * w.val) → hostWrite w v s = s)

/-- While a command runs, a host transaction changes no register, tag or status bit, so no operand and no curve register can change under it (20_memory.md R78, 10_state.md R40). -/
def Obligations.NothingChangesUnderARunningCommand : Prop :=
  ∀ (s t : State) (e : Event) (rest : List Event), StatusLegal s → s.busy = true → s.pending = e :: rest →
    e ≠ .engine → e ≠ .reset → step s = .next t → t = { s with pending := rest, answers := t.answers }

/-- 30_encoding.md R110, R111: a word written to `CMD` while idle is dropped when `ERR` = 1, recorded as IllegalCommand (`ERR`, `ERRCODE` 7, `DONE`) when it is no command, and accepted otherwise (`CUR`, `BUSY`, `DONE`). -/
def Obligations.IssueDropsRejectsOrAccepts : Prop :=
  ∀ (s : State) (c : Word), s.busy = false →
    (s.err = true → hostWrite (wordAt 0x000) c s = s) ∧
    (s.err = false → ∀ e, decode c = .error e →
      hostWrite (wordAt 0x000) c s = { s with err := true, errcode := 7, done := true }) ∧
    (s.err = false → ∀ i, decode c = .ok i →
      hostWrite (wordAt 0x000) c s = { s with cur := c, busy := true, done := false })

/-! ### Errors -/

/-- 60_exceptions.md R258: writing `STATUS` with v[2] = 1 clears `ERR` and `ERRCODE` when `ERR` = 1 and does nothing otherwise; with v[2] = 0 it does nothing. -/
def Obligations.WritingStatusClearsTheError : Prop :=
  ∀ (s : State) (v : Word),
    (v.getLsbD 2 = true → s.err = true → hostWrite (wordAt 0x004) v s = { s with err := false, errcode := 0 }) ∧
    (v.getLsbD 2 = true → s.err = false → hostWrite (wordAt 0x004) v s = s) ∧
    (v.getLsbD 2 = false → hostWrite (wordAt 0x004) v s = s)

/-- An error stays, with its code, through every step but a reset and a write of 1 to bit 2 of `STATUS`, and while it stays no command starts (60_exceptions.md R257). -/
def Obligations.ErrorIsStickyAndBlocks : Prop :=
  ∀ s t : State, StatusLegal s → s.err = true → step s = .next t →
    (t.err = true ∧ t.errcode = s.errcode ∧ t.busy = false) ∨
    (∃ rest, s.pending = .reset :: rest) ∨
    (∃ w v rest, s.pending = .hostWrite w v :: rest ∧ 4 * w.val = 0x004 ∧ v.getLsbD 2 = true)

/-- 60_exceptions.md R255: a command that fails changes `BUSY`, `DONE`, `ERR`, `ERRCODE` and nothing else the host can see, whatever the command; the code is that of the one kind it failed with; for an illegal command word the same four fields are written in the issuing step. -/
def Obligations.FailureWritesOnlyTheStatus : Prop :=
  (∀ (i : Instr) (s t : State), s.err = false → exec i s = .next t → t.err = true →
    t = { s with
      busy := false, done := true, err := true, errcode := t.errcode, cur := t.cur, hidden := t.hidden,
      drawn := t.drawn } ∧
    (∃ e : ErrKind, t.errcode = e.code ∧ exec i s = .next (s.failWith e)) ∧
    (t.errcode = 3 ∨ t.errcode = 5 ∨ t.errcode = 6) ∧
    (∀ w : WordIndex, 4 * w.val ≠ 0x004 → hostRead w t = hostRead w s)) ∧
  (∀ (c : Word) (s : State), s.busy = false → s.err = false → (∃ e, decode c = .error e) →
    hostWrite (wordAt 0x000) c s = { s with busy := false, done := true, err := true, errcode := 7 })

/-- Every command completes, whatever the registers hold, and leaves the operands, the scalar and the input tags as they were (70_reset_and_hazards.md R294, 10_state.md R32, R33, R37). -/
def Obligations.EveryCommandCompletes : Prop :=
  ∀ (i : Instr) (s : State), ∃ t, exec i s = .next t ∧ t.busy = false ∧ t.done = true ∧
    t.fa = s.fa ∧ t.fb = s.fb ∧ t.px = s.px ∧ t.py = s.py ∧ t.pinf = s.pinf ∧ t.qx = s.qx ∧ t.qy = s.qy ∧
    t.qinf = s.qinf ∧ t.k = s.k ∧ t.pending = s.pending ∧ t.answers = s.answers

/-- With `CP` = 0, as after reset, every command other than LDCURVE fails with OperandRange (70_reset_and_hazards.md R283). -/
def Obligations.NoCurveMeansOperandRange : Prop :=
  State.reset.cp = 0 ∧
  ∀ (i : Instr) (s : State), s.cp = 0 → (∀ cid, i ≠ .ldcurve cid) → exec i s = .next (s.failWith .operandRange)

/-! ### Field commands -/

/-- 40_field_arithmetic.md R131: MODADD writes a + b, less `CP` when the sum is not below it, never truncated; out of range it fails with OperandRange. -/
def Obligations.ModaddAdds : Prop :=
  ∀ s : State,
    (s.fa < s.cp → s.fb < s.cp →
      exec .modadd s = .next (State.succeed { s with
        fr := BitVec.ofNat 192 (if s.fa.toNat + s.fb.toNat < s.cp.toNat then s.fa.toNat + s.fb.toNat
          else s.fa.toNat + s.fb.toNat - s.cp.toNat) })) ∧
    (¬ (s.fa < s.cp ∧ s.fb < s.cp) → exec .modadd s = .next (s.failWith .operandRange))

/-- 40_field_arithmetic.md R132: MODSUB writes a - b, plus `CP` when a is below b; out of range it fails with OperandRange. -/
def Obligations.ModsubSubtracts : Prop :=
  ∀ s : State,
    (s.fa < s.cp → s.fb < s.cp →
      exec .modsub s = .next (State.succeed { s with
        fr := BitVec.ofNat 192 (if s.fb.toNat ≤ s.fa.toNat then s.fa.toNat - s.fb.toNat
          else s.fa.toNat + s.cp.toNat - s.fb.toNat) })) ∧
    (¬ (s.fa < s.cp ∧ s.fb < s.cp) → exec .modsub s = .next (s.failWith .operandRange))

/-- 40_field_arithmetic.md R133: MODMUL writes the exact product reduced mod `CP`, the same with `FA` and `FB` exchanged; out of range it fails with OperandRange. -/
def Obligations.ModmulMultiplies : Prop :=
  ∀ s : State,
    (s.fa < s.cp → s.fb < s.cp →
      exec .modmul s = .next (State.succeed { s with fr := BitVec.ofNat 192 (s.fa.toNat * s.fb.toNat % s.cp.toNat) }) ∧
      ∃ t, exec .modmul { s with fa := s.fb, fb := s.fa } = .next t ∧ t.err = s.err ∧
        t.fr.toNat = s.fa.toNat * s.fb.toNat % s.cp.toNat) ∧
    (¬ (s.fa < s.cp ∧ s.fb < s.cp) → exec .modmul s = .next (s.failWith .operandRange))

/-- 40_field_arithmetic.md R134: MODSQR writes `FA` squared mod `CP` whatever `FB` holds, exactly what MODMUL gives with `FB` = `FA`; out of range it fails with OperandRange. -/
def Obligations.ModsqrSquares : Prop :=
  ∀ s : State,
    (s.fa < s.cp →
      exec .modsqr s = .next (State.succeed { s with fr := BitVec.ofNat 192 (s.fa.toNat * s.fa.toNat % s.cp.toNat) }) ∧
      ∃ t, exec .modmul { s with fb := s.fa } = .next t ∧ t.err = s.err ∧
        t.fr.toNat = s.fa.toNat * s.fa.toNat % s.cp.toNat) ∧
    (¬ s.fa < s.cp → exec .modsqr s = .next (s.failWith .operandRange))

/-- The shift-and-add construction of 40_field_arithmetic.md R135, from the top bit of b down, computes what MODMUL computes, for every modulus and operands in range. -/
def Obligations.ShiftAndAddIsModmul : Prop :=
  ∀ a b p : Nat, a < p → b < p → shiftAndAdd a b p (bitlen b) 0 = fmul a b p

/-- 41_modular_inverse.md R150: `finv` fails with NoModularInverse exactly when gcd(b, p) is not 1, and otherwise returns the unique r in [0, p) with b·r = 1 mod p. -/
def Obligations.FinvIsTheUniqueInverse : Prop :=
  ∀ b p : Nat, b < p →
    (Nat.gcd b p ≠ 1 → finv b p = .error .noModularInverse) ∧
    (Nat.gcd b p = 1 → ∃ r, finv b p = .ok r ∧ r < p ∧ b * r % p = 1 % p ∧
      ∀ r', r' < p → b * r' % p = 1 % p → r' = r)

/-- 41_modular_inverse.md R151: MODINV writes the inverse of `FB` mod `CP`, whatever `FA` holds; it fails with OperandRange when `FB` is not below `CP`, else with NoModularInverse when gcd(`FB`, `CP`) is not 1. -/
def Obligations.ModinvInverts : Prop :=
  ∀ s : State,
    (s.fb < s.cp → Nat.gcd s.fb.toNat s.cp.toNat = 1 →
      ∃ r, r < s.cp.toNat ∧ s.fb.toNat * r % s.cp.toNat = 1 % s.cp.toNat ∧
        exec .modinv s = .next (State.succeed { s with fr := BitVec.ofNat 192 r })) ∧
    (s.fb < s.cp → Nat.gcd s.fb.toNat s.cp.toNat ≠ 1 → exec .modinv s = .next (s.failWith .noModularInverse)) ∧
    (¬ s.fb < s.cp → exec .modinv s = .next (s.failWith .operandRange))

/-- 41_modular_inverse.md R152: MODDIV writes the q in [0, `CP`) with q·`FB` = `FA` mod `CP`, computed as `FA` times the inverse of `FB`; 0 / 0 fails like every divisor without an inverse. -/
def Obligations.ModdivDivides : Prop :=
  ∀ s : State,
    (s.fa < s.cp → s.fb < s.cp → Nat.gcd s.fb.toNat s.cp.toNat = 1 →
      ∃ i q, i < s.cp.toNat ∧ s.fb.toNat * i % s.cp.toNat = 1 % s.cp.toNat ∧ q = s.fa.toNat * i % s.cp.toNat ∧
        q * s.fb.toNat % s.cp.toNat = s.fa.toNat ∧
        exec .moddiv s = .next (State.succeed { s with fr := BitVec.ofNat 192 q })) ∧
    (s.fa < s.cp → s.fb < s.cp → Nat.gcd s.fb.toNat s.cp.toNat ≠ 1 →
      exec .moddiv s = .next (s.failWith .noModularInverse)) ∧
    (¬ (s.fa < s.cp ∧ s.fb < s.cp) → exec .moddiv s = .next (s.failWith .operandRange))

/-- 41_modular_inverse.md R155, as its host script: invert a, multiply the result by a, and `FR` holds 1, for every modulus of at least 2 and every a below it (40_field_arithmetic.md R130) and coprime to it. The script's lines are functions of the model, whose `WAIT` is one turn of the engine (30_encoding.md R114; the model's choice, log 18). -/
def Obligations.InverseScriptEndsInOne : Prop :=
  ∀ (s : State) (a : Big), StatusLegal s → s.busy = false → s.err = false → 2 ≤ s.cp.toNat → a < s.cp →
    Nat.gcd a.toNat s.cp.toNat = 1 →
    ∃ t u : State, runCmd .modinv (wrbig .fb a s) = .next t ∧
      runCmd .modmul (wrbig .fb (rdbig .fr t) (wrbig .fa a t)) = .next u ∧ rdbig .fr u = 1 ∧
      rd 0x004 u = 0x00000002#32

/-! ### Point commands -/

/-- 42_group_law.md R166: PADD, PDBL and SMUL fail with OperandRange exactly when `CA` or a coordinate of an affine input is not below `CP`; coordinates beside a set tag, `K`, and for PDBL and SMUL all of Q, are not looked at. -/
def Obligations.PointRangeCheck : Prop :=
  ∀ s : State,
    (¬ (s.ca < s.cp ∧ (s.pinf = false → s.px < s.cp ∧ s.py < s.cp)) →
      exec .pdbl s = .next (s.failWith .operandRange) ∧ exec .smul s = .next (s.failWith .operandRange)) ∧
    (¬ (s.ca < s.cp ∧ (s.pinf = false → s.px < s.cp ∧ s.py < s.cp) ∧ (s.qinf = false → s.qx < s.cp ∧ s.qy < s.cp)) →
      exec .padd s = .next (s.failWith .operandRange)) ∧
    (s.err = false → s.ca < s.cp → (s.pinf = false → s.px < s.cp ∧ s.py < s.cp) →
      (∃ t, exec .pdbl s = .next t ∧ (t.err = false ∨ t.errcode = 3)) ∧
      (∃ t, exec .smul s = .next t ∧ (t.err = false ∨ t.errcode = 3)) ∧
      ((s.qinf = false → s.qx < s.cp ∧ s.qy < s.cp) → ∃ t, exec .padd s = .next t ∧ (t.err = false ∨ t.errcode = 3)))

/-- The identity law at the block: PADD with P the identity writes Q, and with Q the identity writes P, whatever the coordinates beside the set tag; the identity is written with zero coordinates (42_group_law.md R168, R169, R174, 10_state.md R35). -/
def Obligations.PaddIdentityLaw : Prop :=
  ∀ s : State, s.ca < s.cp →
    (s.pinf = true → s.qinf = true →
      exec .padd s = .next (State.succeed { s with rinf := true, rx := 0, ry := 0 })) ∧
    (s.pinf = true → s.qinf = false → s.qx < s.cp → s.qy < s.cp →
      exec .padd s = .next (State.succeed { s with rinf := false, rx := s.qx, ry := s.qy })) ∧
    (s.pinf = false → s.qinf = true → s.px < s.cp → s.py < s.cp →
      exec .padd s = .next (State.succeed { s with rinf := false, rx := s.px, ry := s.py }))

/-- PADD of affine points with one abscissa: equal points are doubled exactly as PDBL does, ordinates summing to `CP` give the identity, and any others fail with NoModularInverse (42_group_law.md R168 to R171). -/
def Obligations.PaddEqualAbscissas : Prop :=
  ∀ s : State, s.ca < s.cp → s.pinf = false → s.qinf = false → s.px < s.cp → s.py < s.cp → s.qy < s.cp →
    s.qx = s.px →
    (s.py = s.qy → exec .padd s = exec .pdbl s) ∧
    (s.py ≠ s.qy → s.py.toNat + s.qy.toNat = s.cp.toNat →
      exec .padd s = .next (State.succeed { s with rinf := true, rx := 0, ry := 0 })) ∧
    (s.py ≠ s.qy → s.py.toNat + s.qy.toNat ≠ s.cp.toNat → exec .padd s = .next (s.failWith .noModularInverse))

/-- PADD of affine points with different abscissas: with i the inverse of P.x − Q.x mod `CP`, the slope is (P.y − Q.y)·i and R is the point of the chord formulas; without an inverse the command fails with NoModularInverse (42_group_law.md R168, R169). -/
def Obligations.PaddChord : Prop :=
  ∀ s : State, s.ca < s.cp → s.pinf = false → s.qinf = false → s.px < s.cp → s.py < s.cp → s.qx < s.cp →
    s.qy < s.cp → s.px ≠ s.qx →
    (∀ i : Nat, i < s.cp.toNat → ((s.px.toNat : Int) - s.qx.toNat) * i % s.cp.toNat = 1 % s.cp.toNat →
      ∀ (sl : Int) (r : Int × Int), sl = ((s.py.toNat : Int) - s.qy.toNat) * i % s.cp.toNat →
        r = lineResult sl s.px.toNat s.py.toNat (s.px.toNat + s.qx.toNat) s.cp.toNat →
        exec .padd s = .next (State.succeed { s with
          rinf := false, rx := BitVec.ofInt 192 r.1, ry := BitVec.ofInt 192 r.2 })) ∧
    (Int.gcd ((s.px.toNat : Int) - s.qx.toNat) s.cp.toNat ≠ 1 → exec .padd s = .next (s.failWith .noModularInverse))

/-- 42_group_law.md R170 with R167: PDBL of the identity and of a point with y = 0 is the identity; otherwise, with i the inverse of 2·P.y mod `CP`, the slope is (3·P.x² + a)·i and R is the point of the tangent formulas; without an inverse the command fails with NoModularInverse. -/
def Obligations.PdblTangent : Prop :=
  ∀ s : State, s.ca < s.cp →
    (s.pinf = true → exec .pdbl s = .next (State.succeed { s with rinf := true, rx := 0, ry := 0 })) ∧
    (s.pinf = false → s.px < s.cp → s.py < s.cp → s.py = 0 →
      exec .pdbl s = .next (State.succeed { s with rinf := true, rx := 0, ry := 0 })) ∧
    (s.pinf = false → s.px < s.cp → s.py < s.cp → s.py ≠ 0 →
      (∀ i : Nat, i < s.cp.toNat → 2 * s.py.toNat * i % s.cp.toNat = 1 % s.cp.toNat →
        ∀ (sl : Int) (r : Int × Int), sl = ((3 * s.px.toNat * s.px.toNat + s.ca.toNat : Nat) : Int) * i % s.cp.toNat →
          r = lineResult sl s.px.toNat s.py.toNat (2 * s.px.toNat) s.cp.toNat →
          exec .pdbl s = .next (State.succeed { s with
            rinf := false, rx := BitVec.ofInt 192 r.1, ry := BitVec.ofInt 192 r.2 })) ∧
      (Nat.gcd (2 * s.py.toNat) s.cp.toNat ≠ 1 → exec .pdbl s = .next (s.failWith .noModularInverse)))

/-- SMUL where the answer needs no curve: k = 0 gives the identity for any P in range, P the identity gives the identity for every k, and k = 1 gives P when its trailing doubling does not fail (43_scalar_mult.md R191). -/
def Obligations.SmulSimpleCases : Prop :=
  ∀ s : State, s.ca < s.cp → (s.pinf = false → s.px < s.cp ∧ s.py < s.cp) →
    (s.k = 0 → exec .smul s = .next (State.succeed { s with rinf := true, rx := 0, ry := 0 })) ∧
    (s.pinf = true → exec .smul s = .next (State.succeed { s with rinf := true, rx := 0, ry := 0 })) ∧
    (s.pinf = false → s.k = 1 → (s.py = 0 ∨ Nat.gcd (2 * s.py.toNat) s.cp.toNat = 1) →
      exec .smul s = .next (State.succeed { s with rinf := false, rx := s.px, ry := s.py }))

/-- The doubling of the running point is done in every iteration, the last included, so a P whose doubling fails makes SMUL fail with NoModularInverse for every k but 0 (43_scalar_mult.md R195). -/
def Obligations.SmulTrailingDoublingFails : Prop :=
  ∀ s : State, s.ca < s.cp → s.pinf = false → s.px < s.cp → s.py < s.cp → s.py ≠ 0 → s.k ≠ 0 →
    Nat.gcd (2 * s.py.toNat) s.cp.toNat ≠ 1 → exec .smul s = .next (s.failWith .noModularInverse)

/-- PADD is the group law: with `CP` an odd prime and P, Q points of the curve in the registers, it succeeds and R stands for P + Q in Mathlib's group of the curve's points (42_group_law.md R168, R174). -/
def Obligations.PaddIsTheGroupLaw : Prop :=
  ∀ (s : State) [Fact (Nat.Prime s.cp.toNat)], s.cp.toNat ≠ 2 → s.ca < s.cp →
    ∀ X Y : (curveOf s).Point, Represents s s.pointP X → Represents s s.pointQ Y →
      ∃ v, Represents s v (X + Y) ∧ exec .padd s = .next (s.writeR v).succeed

/-- PDBL is the group law's doubling: with `CP` an odd prime and P a point of the curve in the registers, it succeeds and R stands for P + P (42_group_law.md R167, R170). -/
def Obligations.PdblIsTheGroupDoubling : Prop :=
  ∀ (s : State) [Fact (Nat.Prime s.cp.toNat)], s.cp.toNat ≠ 2 → s.ca < s.cp →
    ∀ X : (curveOf s).Point, Represents s s.pointP X →
      ∃ v, Represents s v (X + X) ∧ exec .pdbl s = .next (s.writeR v).succeed

/-- SMUL computes k·P: with `CP` an odd prime and P a point of the curve in the registers, it succeeds for every 192-bit k, and R stands for k·P in the group of the curve's points (43_scalar_mult.md R190, R197). -/
def Obligations.SmulComputesTheMultiple : Prop :=
  ∀ (s : State) [Fact (Nat.Prime s.cp.toNat)], s.cp.toNat ≠ 2 → s.ca < s.cp →
    ∀ X : (curveOf s).Point, Represents s s.pointP X →
      ∃ v, Represents s v (s.k.toNat • X) ∧ exec .smul s = .next (s.writeR v).succeed

/-- Key agreement, on which the key exchange rests: from one point G of a curve over an odd prime, multiplying by dA and then dB ends in the same point value as dB and then dA (43_scalar_mult.md R197, 45_host_procedures.md R228). -/
def Obligations.KeyAgreement : Prop :=
  ∀ (s : State) [Fact (Nat.Prime s.cp.toNat)], s.cp.toNat ≠ 2 → s.ca < s.cp →
    ∀ (g : Point) (X : (curveOf s).Point), Represents s g X → ∀ dA dB : Nat,
      ∃ qA qB shared, smul g dA s.ca.toNat s.cp.toNat = .ok qA ∧ smul g dB s.ca.toNat s.cp.toNat = .ok qB ∧
        smul qB dA s.ca.toNat s.cp.toNat = .ok shared ∧ smul qA dB s.ca.toNat s.cp.toNat = .ok shared

/-! ### The curve registry -/

/-- 44_curve_registry.md R206: LDCURVE 0 and LDCURVE 1 load the eight registers with the rows of secp192k1 and secp192r1, and touch nothing else; they read no register. The rows' digits are R205's, which marks them as from general knowledge (log 11). -/
def Obligations.LdcurveLoadsTheRow : Prop :=
  ∀ s : State,
    exec (.ldcurve 0) s = .next (State.succeed { s with
      cp := BitVec.ofNat 192 (2 ^ 192 - 2 ^ 32 - 2 ^ 12 - 2 ^ 8 - 2 ^ 7 - 2 ^ 6 - 2 ^ 3 - 1), ca := 0, cb := 3,
      cgx := 0xDB4FF10EC057E9AE26B07D0280B7F4341DA5D1B1EAE06C7D#192,
      cgy := 0x9B2F2F6D9C5628A7844163D015BE86344082AA88D95E2F9D#192,
      cn := 0xFFFFFFFFFFFFFFFFFFFFFFFE26F2FC170F69466A74DEFD8D#192, cofactor := 1, keybits := 192 }) ∧
    exec (.ldcurve 1) s = .next (State.succeed { s with
      cp := BitVec.ofNat 192 (2 ^ 192 - 2 ^ 64 - 1), ca := BitVec.ofNat 192 (2 ^ 192 - 2 ^ 64 - 1 - 3),
      cb := 0x64210519E59C80E70FA7E9AB72243049FEB8DEECC146B9B1#192,
      cgx := 0x188DA80EB03090F67CBF20EB43A18800F4FF0AFD82FF1012#192,
      cgy := 0x07192B95FFC8DA78631011ED6B24CDD573F977A11E794811#192,
      cn := 0xFFFFFFFFFFFFFFFFFFFFFFFF99DEF836146BC9B1B4D22831#192, cofactor := 1, keybits := 192 })

/-- 44_curve_registry.md R207: LDCURVE with a CID other than 0 and 1 fails with CurveConstructionError and leaves every curve register as it was. -/
def Obligations.UnknownCurveFails : Prop :=
  ∀ (cid : Nat) (s : State), cid ≠ 0 → cid ≠ 1 →
    ∃ t, exec (.ldcurve cid) s = .next t ∧ t = s.failWith .curveConstructionError ∧ t.errcode = 5 ∧
      t.cp = s.cp ∧ t.ca = s.ca ∧ t.cb = s.cb ∧ t.cgx = s.cgx ∧ t.cgy = s.cgy ∧ t.cn = s.cn ∧
      t.cofactor = s.cofactor ∧ t.keybits = s.keybits

/-! ### Frames and whole-machine rules -/

/-- What a field command (MODADD, MODSUB, MODMUL, MODSQR, MODINV, MODDIV) leaves unchanged: every register but `FR`, every tag, `ERR` and `ERRCODE` unless it fails (and then `FR` too), and every word of the window outside `STATUS` and the six words of `FR` (10_state.md R50). -/
def Obligations.FieldCommandFrame : Prop :=
  ∀ (i : Instr) (s t : State), IsFieldCommand i → exec i s = .next t →
    t = { s with
      fr := t.fr, busy := false, done := true, err := t.err, errcode := t.errcode, cur := t.cur,
      hidden := t.hidden, drawn := t.drawn } ∧
    ((t.err = s.err ∧ t.errcode = s.errcode) ∨ (t.err = true ∧ t.fr = s.fr)) ∧
    ∀ w : WordIndex, 4 * w.val ≠ 0x004 → ¬ (0x120 ≤ 4 * w.val ∧ 4 * w.val ≤ 0x134) → hostRead w t = hostRead w s

/-- What a point command (PADD, PDBL, SMUL) leaves unchanged: every register but `RX`, `RY` and the tag `RINF`, `ERR` and `ERRCODE` unless it fails (and then R too), and every word of the window outside `STATUS`, `PFLAGS` and the words of `RX` and `RY`; of `PFLAGS`, the input tags (10_state.md R50). -/
def Obligations.PointCommandFrame : Prop :=
  ∀ (i : Instr) (s t : State), IsPointCommand i → exec i s = .next t →
    t = { s with
      rinf := t.rinf, rx := t.rx, ry := t.ry, busy := false, done := true, err := t.err,
      errcode := t.errcode, cur := t.cur, hidden := t.hidden, drawn := t.drawn } ∧
    ((t.err = s.err ∧ t.errcode = s.errcode) ∨ (t.err = true ∧ t.rinf = s.rinf ∧ t.rx = s.rx ∧ t.ry = s.ry)) ∧
    ∀ w : WordIndex, 4 * w.val ≠ 0x004 → 4 * w.val ≠ 0x008 → ¬ (0x1C0 ≤ 4 * w.val ∧ 4 * w.val ≤ 0x1D4) →
      ¬ (0x1E0 ≤ 4 * w.val ∧ 4 * w.val ≤ 0x1F4) → hostRead w t = hostRead w s

/-- What LDCURVE leaves unchanged: every register but the eight curve registers, every tag, `ERR` and `ERRCODE` unless it fails (and then the curve registers too), and every word of the window outside `STATUS`, `KEYBITS`, `COFACTOR` and the curve registers' words (10_state.md R50, 44_curve_registry.md R206). -/
def Obligations.LdcurveFrame : Prop :=
  ∀ (cid : Nat) (s t : State), exec (.ldcurve cid) s = .next t →
    t = { s with
      cp := t.cp, ca := t.ca, cb := t.cb, cgx := t.cgx, cgy := t.cgy, cn := t.cn, keybits := t.keybits,
      cofactor := t.cofactor, busy := false, done := true, err := t.err, errcode := t.errcode, cur := t.cur,
      hidden := t.hidden, drawn := t.drawn } ∧
    ((t.err = s.err ∧ t.errcode = s.errcode) ∨
      (t.err = true ∧ t.cp = s.cp ∧ t.ca = s.ca ∧ t.cb = s.cb ∧ t.cgx = s.cgx ∧ t.cgy = s.cgy ∧ t.cn = s.cn ∧
        t.keybits = s.keybits ∧ t.cofactor = s.cofactor)) ∧
    ∀ w : WordIndex, 4 * w.val ≠ 0x004 → 4 * w.val ≠ 0x00C → 4 * w.val ≠ 0x010 →
      (∀ b ∈ [0x020, 0x040, 0x060, 0x080, 0x0A0, 0x0C0], ¬ (b ≤ 4 * w.val ∧ 4 * w.val ≤ b + 0x14)) →
      hostRead w t = hostRead w s

/-- Every result lies in [0, `CP`): `FR` after a field command that succeeds, the coordinates of an affine R after a point command that succeeds (40_field_arithmetic.md R136). -/
def Obligations.ResultsLieInTheField : Prop :=
  ∀ (i : Instr) (s t : State), s.err = false → exec i s = .next t → t.err = false →
    (IsFieldCommand i → t.fr < t.cp) ∧ (IsPointCommand i → t.rinf = false → t.rx < t.cp ∧ t.ry < t.cp)

/-- The result registers have no other writer: a step that changes `FR` or R is a reset or the completion of a field or point command that was running (10_state.md R32, R33, 43_scalar_mult.md R196). -/
def Obligations.OnlyCompletionWritesResults : Prop :=
  ∀ s t : State, step s = .next t → (t.fr ≠ s.fr ∨ t.rinf ≠ s.rinf ∨ t.rx ≠ s.rx ∨ t.ry ≠ s.ry) →
    (∃ rest, s.pending = .reset :: rest) ∨
    (s.busy = true ∧ (s.pending = [] ∨ ∃ rest, s.pending = .engine :: rest) ∧
      ∃ i, decode s.cur = .ok i ∧ (IsFieldCommand i ∨ IsPointCommand i))

/-- The curve registers have no other writer: a step that changes one is a reset, a host write while idle, or the completion of an LDCURVE that was running (10_state.md R40). -/
def Obligations.OnlyLdcurveAndHostWriteTheCurve : Prop :=
  ∀ s t : State, step s = .next t →
    (t.cp ≠ s.cp ∨ t.ca ≠ s.ca ∨ t.cb ≠ s.cb ∨ t.cgx ≠ s.cgx ∨ t.cgy ≠ s.cgy ∨ t.cn ≠ s.cn ∨
      t.keybits ≠ s.keybits ∨ t.cofactor ≠ s.cofactor) →
    (∃ rest, s.pending = .reset :: rest) ∨
    (s.busy = false ∧ ∃ w v rest, s.pending = .hostWrite w v :: rest) ∨
    (s.busy = true ∧ (s.pending = [] ∨ ∃ rest, s.pending = .engine :: rest) ∧ ∃ cid, decode s.cur = .ok (.ldcurve cid))

/-! ### Host software -/

/-- A six-word write while idle sets a writable register to the value given and nothing else, and the six-word read gives it back (30_encoding.md R114, `WRBIG`, `RDBIG`; 70_reset_and_hazards.md R286). The two lines are functions of the model (log 18). -/
def Obligations.WrbigSetsTheRegister : Prop :=
  ∀ (s : State) (r : BigReg) (v : Big), r ≠ .fr → r ≠ .rx → r ≠ .ry → s.busy = false →
    wrbig r v s = s.setBig r v ∧ rdbig r (wrbig r v s) = v

/-- The key exchange agrees (45_host_procedures.md R228): on an idle block with no error and a curve over an odd prime in its registers, for any two scalars whose public points and secret are affine, each side's `derive_shared_secret` of the other's encoded public point returns the same string. The procedures are functions of the model (log 18); that they return a value rests on a host with the memory it needs, the model's choice (log 24). -/
def Obligations.SharedSecretsAgree : Prop :=
  ∀ (s : State) [Fact (Nat.Prime s.cp.toNat)], s.cp.toNat ≠ 2 → s.ca < s.cp → s.busy = false → s.err = false →
    ∀ (g : Point) (X : (curveOf s).Point), Represents s g X →
      ∀ dA dB xA yA xB yB xS yS : Nat, dA < 2 ^ 192 → dB < 2 ^ 192 →
        smul g dA s.ca.toNat s.cp.toNat = .ok (.affine xA yA) → smul g dB s.ca.toNat s.cp.toNat = .ok (.affine xB yB) →
        smul (.affine xB yB) dA s.ca.toNat s.cp.toNat = .ok (.affine xS yS) →
        ∃ strA strB secret tA tB,
          encodePoint s.cp.toNat (.affine xA yA) = .ok strA ∧ encodePoint s.cp.toNat (.affine xB yB) = .ok strB ∧
          encodePoint s.cp.toNat (.affine xS yS) = .ok secret ∧
          deriveSharedSecret dA strB s = .ok (secret, tA) ∧ deriveSharedSecret dB strA s = .ok (secret, tB)

/-- The codec's round trip: decoding the encoding of an affine point with coordinates below a prime of at most 192 bits gives the point back, and the encoding has 2 + 4·L characters (45_host_procedures.md R221, R223, R224); that both return a value rests on a host with the memory it needs, the model's choice (log 24). -/
def Obligations.CodecRoundTrip : Prop :=
  ∀ p x y : Nat, p < 2 ^ 192 → x < p → y < p →
    ∃ str, encodePoint p (.affine x y) = .ok str ∧ str.length = 2 + 4 * fieldBytes p ∧
      decodePoint str = .ok (.affine x y)

/-- `generate_key_pair` on an idle block with no error, a curve over an odd prime and its generator in the registers, and a `KEYBITS` of whole bytes up to 192: from an answer of the entropy source of the right length, and under `rejection` of a value from 1 to n − 1, it takes the big-endian value d and returns d with the point d·G; when d·G is the identity it has no defined result (45_host_procedures.md R225, R226, R222, 93_implementation_defined.md U4). The procedure, the list of answers and the name of the missing result are the model's (logs 18, 19, 20); that it returns a value rests on a host with the memory it needs, the model's choice (log 24). -/
def Obligations.KeyPairHoldsTheMultipleOfG : Prop :=
  ∀ (s : State) [Fact (Nat.Prime s.cp.toNat)], s.cp.toNat ≠ 2 → s.ca < s.cp → s.busy = false → s.err = false →
    ∀ X : (curveOf s).Point, Represents s (.affine s.cgx.toNat s.cgy.toNat) X →
    s.keybits.toNat % 8 = 0 → s.keybits.toNat ≤ 192 →
    ∀ (sampling : Sampling) (bytes : List (BitVec 8)) (rest : List (Option (List (BitVec 8)))) (d : Nat),
      bytes.length = s.keybits.toNat / 8 →
      d = ∑ i ∈ Finset.range bytes.length, (bytes.getD i 0).toNat * 256 ^ (bytes.length - 1 - i) →
      (sampling = .rejection → 1 ≤ d ∧ d + 1 ≤ s.cn.toNat) →
      ∃ v, Represents s v (d • X) ∧
        (∀ x y, v = .affine x y → ∃ t, generateKeyPair sampling (some bytes :: rest) s = .ok (d, .affine x y, t)) ∧
        (v = .infinity → generateKeyPair sampling (some bytes :: rest) s = .error .noDefinedResult)
end

