-- ==== Sys2Proof/Laws/Arith.lean ====
section
/-! SUPPORT. What the pure functions of the arithmetic do: residues (00_scope.md R12), the Euclidean loop (41_modular_inverse.md R153), the formulas' results lie below the modulus (40_field_arithmetic.md R136). -/

namespace Sys2Proof.Machine

theorem imod_lt (a : Int) {m : Nat} (h : 0 < m) : imod a m < m := by
  have hm : (0 : Int) < m := by exact_mod_cast h
  have h1 := Int.emod_lt_of_pos a hm
  have h0 := Int.emod_nonneg a hm.ne'
  unfold imod
  omega

/-- `imod` is the integer residue (00_scope.md R12). -/
theorem imod_cast (a : Int) {m : Nat} (h : 0 < m) : (imod a m : Int) = a % m := by
  have hm : (m : Int) ≠ 0 := by exact_mod_cast h.ne'
  exact Int.toNat_of_nonneg (Int.emod_nonneg a hm)

theorem fadd_lt (a b : Nat) {p : Nat} (h : 0 < p) : fadd a b p < p := Nat.mod_lt _ h

theorem fsub_lt (a b : Nat) {p : Nat} (h : 0 < p) : fsub a b p < p := imod_lt _ h

theorem fmul_lt (a b : Nat) {p : Nat} (h : 0 < p) : fmul a b p < p := Nat.mod_lt _ h

/-- The loop's invariant of 41_modular_inverse.md R153: each t times b is its remainder modulo p, so with fuel above r1 the last t0 times b is the greatest common divisor modulo p. -/
theorem euclidLoop_dvd {p b : Int} :
    ∀ (fuel r0 r1 : Nat) (t0 t1 : Int), r1 < fuel → p ∣ t0 * b - r0 → p ∣ t1 * b - r1 →
      p ∣ euclidLoop fuel r0 r1 t0 t1 * b - (Nat.gcd r0 r1 : Nat) := by
  intro fuel
  induction fuel with
  | zero => intro r0 r1 t0 t1 h; omega
  | succ n ih =>
    intro r0 r1 t0 t1 h h0 h1
    unfold euclidLoop
    split
    · next hz => subst hz; simpa using h0
    · next hz =>
      have hlt : r0 % r1 < n := by have := Nat.mod_lt r0 (Nat.pos_of_ne_zero hz); omega
      have key : p ∣ (t0 - ((r0 / r1 : Nat) : Int) * t1) * b - ((r0 % r1 : Nat) : Int) := by
        have hq : (r0 : Int) = r1 * ((r0 / r1 : Nat) : Int) + ((r0 % r1 : Nat) : Int) := by
          exact_mod_cast (Nat.div_add_mod r0 r1).symm
        have e : (t0 - ((r0 / r1 : Nat) : Int) * t1) * b - ((r0 % r1 : Nat) : Int) =
            (t0 * b - r0) - ((r0 / r1 : Nat) : Int) * (t1 * b - r1) := by rw [hq]; ring
        rw [e]
        exact dvd_sub h0 (Dvd.dvd.mul_left h1 _)
      have := ih r1 (r0 % r1) t1 _ hlt h1 key
      rwa [show Nat.gcd r1 (r0 % r1) = Nat.gcd r0 r1 by rw [Nat.gcd_comm r1, Nat.gcd_comm r0, ← Nat.gcd_rec]] at this

/-- A failing inverse fails with NoModularInverse, and only when the greatest common divisor is not 1. -/
theorem finv_error {b p : Nat} {e : ErrKind} (h : finv b p = .error e) :
    e = .noModularInverse ∧ Nat.gcd b p ≠ 1 := by
  unfold finv at h
  split at h
  · cases h
  · next hg => injection h with h; exact ⟨h.symm, hg⟩

theorem finv_lt {b p r : Nat} (hp : 0 < p) (h : finv b p = .ok r) : r < p := by
  unfold finv at h
  split at h
  · injection h with h; rw [← h]; exact imod_lt _ hp
  · cases h

theorem fdiv_error {a b p : Nat} {e : ErrKind} (h : fdiv a b p = .error e) :
    e = .noModularInverse ∧ Nat.gcd b p ≠ 1 := by
  unfold fdiv at h
  split at h
  · cases h
  · next he => injection h with h; subst h; exact finv_error he

theorem fdiv_lt {a b p r : Nat} (hp : 0 < p) (h : fdiv a b p = .ok r) : r < p := by
  unfold fdiv at h
  split at h
  · injection h with h; rw [← h]; exact fmul_lt _ _ hp
  · cases h

theorem chordPoint_inField (s x1 y1 xsum : Nat) {p : Nat} (hp : 0 < p) : InField p (chordPoint s x1 y1 xsum p) :=
  ⟨imod_lt _ hp, imod_lt _ hp⟩

/-- `pdbl` of an affine point, by its tests (42_group_law.md R167). -/
theorem pdbl_affine (x y a p : Nat) :
    pdbl (.affine x y) a p =
      if y = 0 then .ok .infinity
      else
        match fdiv ((3 * x * x + a) % p) ((2 * y) % p) p with
        | .error e => .error e
        | .ok s => .ok (chordPoint s x y (2 * x) p) := rfl

/-- `padd` of two affine points, by its tests (42_group_law.md R168). -/
theorem padd_affine (x1 y1 x2 y2 a p : Nat) :
    padd (.affine x1 y1) (.affine x2 y2) a p =
      if x1 = x2 then
        if y1 = y2 then pdbl (.affine x1 y1) a p
        else if (y1 + y2) % p = 0 then .ok .infinity
        else .error .noModularInverse
      else
        match fdiv (fsub y1 y2 p) (fsub x1 x2 p) p with
        | .error e => .error e
        | .ok s => .ok (chordPoint s x1 y1 (x1 + x2) p) := rfl

/-- Doubling answers a point in the field or fails with NoModularInverse. -/
theorem pdbl_cases {pt : Point} {a p : Nat} (hp : 0 < p) :
    (∃ v, pdbl pt a p = .ok v ∧ InField p v) ∨ pdbl pt a p = .error .noModularInverse := by
  unfold pdbl
  split
  · exact .inl ⟨_, rfl, trivial⟩
  · split
    · exact .inl ⟨_, rfl, trivial⟩
    · split
      · next he => exact .inr (by rw [(fdiv_error he).1])
      · exact .inl ⟨_, rfl, chordPoint_inField _ _ _ _ hp⟩

/-- Addition of points in the field answers a point in the field or fails with NoModularInverse. -/
theorem padd_cases {pt qt : Point} {a p : Nat} (hp : 0 < p) (h1 : InField p pt) (h2 : InField p qt) :
    (∃ v, padd pt qt a p = .ok v ∧ InField p v) ∨ padd pt qt a p = .error .noModularInverse := by
  unfold padd
  split
  · exact .inl ⟨_, rfl, h2⟩
  · exact .inl ⟨_, rfl, h1⟩
  · split
    · split
      · exact pdbl_cases hp
      · split
        · exact .inl ⟨_, rfl, trivial⟩
        · exact .inr rfl
    · split
      · next he => exact .inr (by rw [(fdiv_error he).1])
      · exact .inl ⟨_, rfl, chordPoint_inField _ _ _ _ hp⟩

/-- The loop of scalar multiplication answers a point in the field or fails with NoModularInverse. -/
theorem smulLoop_cases {a p : Nat} (k : Nat) (hp : 0 < p) :
    ∀ (n idx : Nat) (acc run : Point), InField p acc → InField p run →
      (∃ v, smulLoop n idx acc run k a p = .ok v ∧ InField p v) ∨
        smulLoop n idx acc run k a p = .error .noModularInverse := by
  intro n
  induction n with
  | zero => intro idx acc run h1 _; exact .inl ⟨_, rfl, h1⟩
  | succ n ih =>
    intro idx acc run h1 h2
    have hacc : (∃ v, (if bitOf k idx = 1 then padd acc run a p else .ok acc) = .ok v ∧ InField p v) ∨
        (if bitOf k idx = 1 then padd acc run a p else .ok acc) = .error .noModularInverse := by
      split
      · exact padd_cases hp h1 h2
      · exact .inl ⟨_, rfl, h1⟩
    unfold smulLoop
    obtain ⟨acc', ha, hb⟩ | ha := hacc
    · rw [ha]
      obtain ⟨run', hr, hrb⟩ | hr := pdbl_cases (pt := run) (a := a) hp
      · rw [hr]; exact ih (idx + 1) acc' run' hb hrb
      · rw [hr]; exact .inr rfl
    · rw [ha]; exact .inr rfl

theorem smul_cases {pt : Point} {a p : Nat} (k : Nat) (hp : 0 < p) (h : InField p pt) :
    (∃ v, smul pt k a p = .ok v ∧ InField p v) ∨ smul pt k a p = .error .noModularInverse :=
  smulLoop_cases k hp _ _ _ _ trivial h

end Sys2Proof.Machine
end

