-- ==== Sys2Proof/Laws/Decode.lean ====
section
/-! SUPPORT. The fields of the command word: what each reads back from an encoded command, and a word is its three fields (30_encoding.md R101). -/

namespace Sys2Proof

theorem opField_encode (i : Instr) : opField (encode i) = opcodeOf i := by
  unfold opField encode
  apply BitVec.eq_of_getLsbD_eq
  intro j hj
  simp only [BitVec.getLsbD_extractLsb', BitVec.getLsbD_append, hj, decide_true, Bool.true_and, Nat.zero_add, if_true]

theorem immField_encode (i : Instr) : immField (encode i) = immOf i := by
  unfold immField encode
  apply BitVec.eq_of_getLsbD_eq
  intro j hj
  have h1 : ¬ (8 + j < 8) := by omega
  have h2 : 8 + j - 8 = j := by omega
  simp only [BitVec.getLsbD_extractLsb', BitVec.getLsbD_append, hj, decide_true, Bool.true_and, h1, h2, if_true, if_false]

theorem zeroField_encode (i : Instr) : zeroField (encode i) = 0#16 := by
  unfold zeroField encode
  apply BitVec.eq_of_getLsbD_eq
  intro j hj
  have h1 : ¬ (16 + j < 8) := by omega
  have h2 : ¬ (16 + j - 8 < 8) := by omega
  simp only [BitVec.getLsbD_extractLsb', BitVec.getLsbD_append, BitVec.getLsbD_zero, hj, decide_true, Bool.true_and, h1, h2, if_false]

/-- A word is `{ZERO, IMM, OP}` (30_encoding.md R101). -/
theorem fields_append (c : Word) : (zeroField c ++ immField c) ++ opField c = c := by
  unfold zeroField immField opField
  apply BitVec.eq_of_getLsbD_eq
  intro j hj
  simp only [BitVec.getLsbD_append, BitVec.getLsbD_extractLsb', Nat.zero_add]
  by_cases h1 : j < 8
  · simp [h1]
  · by_cases h2 : j - 8 < 8
    · have e : 8 + (j - 8) = j := by omega
      simp [h1, h2, e]
    · have e : 16 + (j - 8 - 8) = j := by omega
      have h3 : j - 8 - 8 < 16 := by omega
      simp [h1, h2, e, h3]

/-- The mask and match of LDCURVE's row ask for `ZERO` = 0 and `OP` = 0x20 and leave `IMM` free (30_encoding.md R103). -/
theorem ldcurveRow_iff (c : Word) :
    c &&& 0xFFFF00FF#32 = 0x00000020#32 ↔ zeroField c = 0#16 ∧ opField c = 0x20#8 := by
  have hm : ∀ j, j < 32 → (0xFFFF00FF#32).getLsbD j = decide (j < 8 ∨ 16 ≤ j) := by decide
  have hp : ∀ j, j < 32 → (0x00000020#32).getLsbD j = decide (j = 5) := by decide
  have hq : ∀ j, j < 8 → (0x20#8).getLsbD j = decide (j = 5) := by decide
  constructor
  · intro h
    have hb : ∀ j, j < 32 → (c.getLsbD j && decide (j < 8 ∨ 16 ≤ j)) = decide (j = 5) := by
      intro j hj
      rw [← hm j hj, ← hp j hj, ← h, BitVec.getLsbD_and]
    constructor
    · apply BitVec.eq_of_getLsbD_eq
      intro j hj
      have hbit := hb (16 + j) (by omega)
      have h1 : 16 + j ≠ 5 := by omega
      simp [h1] at hbit
      simp [zeroField, hbit]
    · apply BitVec.eq_of_getLsbD_eq
      intro j hj
      have hbit := hb j (by omega)
      simp [hj] at hbit
      rw [hq j hj, opField, BitVec.getLsbD_extractLsb']
      simp [hj, hbit]
  · rintro ⟨hz, ho⟩
    have hc := fields_append c
    rw [hz, ho] at hc
    apply BitVec.eq_of_getLsbD_eq
    intro j hj
    rw [BitVec.getLsbD_and, hm j hj, hp j hj, ← hc, BitVec.getLsbD_append, BitVec.getLsbD_append]
    by_cases h8 : j < 8
    · simp only [h8, if_true, hq j h8]
      simp
    · have h5 : j ≠ 5 := by omega
      by_cases h16 : 16 ≤ j
      · simp [h8, h5]
        omega
      · simp [h8, h16, h5]

end Sys2Proof
end

