-- ==== Sys2Proof/Laws/State.lean ====
section
/-! SUPPORT. The field lemmas of the state's updates: one per field per update, so that no later proof unfolds a record update. -/

namespace Sys2Proof.Machine

/-! ### release -/

@[simp] theorem State.release_cp (s : State) : (s.release).cp = s.cp := rfl
@[simp] theorem State.release_ca (s : State) : (s.release).ca = s.ca := rfl
@[simp] theorem State.release_cb (s : State) : (s.release).cb = s.cb := rfl
@[simp] theorem State.release_cgx (s : State) : (s.release).cgx = s.cgx := rfl
@[simp] theorem State.release_cgy (s : State) : (s.release).cgy = s.cgy := rfl
@[simp] theorem State.release_cn (s : State) : (s.release).cn = s.cn := rfl
@[simp] theorem State.release_keybits (s : State) : (s.release).keybits = s.keybits := rfl
@[simp] theorem State.release_cofactor (s : State) : (s.release).cofactor = s.cofactor := rfl
@[simp] theorem State.release_fa (s : State) : (s.release).fa = s.fa := rfl
@[simp] theorem State.release_fb (s : State) : (s.release).fb = s.fb := rfl
@[simp] theorem State.release_fr (s : State) : (s.release).fr = s.fr := rfl
@[simp] theorem State.release_pinf (s : State) : (s.release).pinf = s.pinf := rfl
@[simp] theorem State.release_px (s : State) : (s.release).px = s.px := rfl
@[simp] theorem State.release_py (s : State) : (s.release).py = s.py := rfl
@[simp] theorem State.release_qinf (s : State) : (s.release).qinf = s.qinf := rfl
@[simp] theorem State.release_qx (s : State) : (s.release).qx = s.qx := rfl
@[simp] theorem State.release_qy (s : State) : (s.release).qy = s.qy := rfl
@[simp] theorem State.release_rinf (s : State) : (s.release).rinf = s.rinf := rfl
@[simp] theorem State.release_rx (s : State) : (s.release).rx = s.rx := rfl
@[simp] theorem State.release_ry (s : State) : (s.release).ry = s.ry := rfl
@[simp] theorem State.release_k (s : State) : (s.release).k = s.k := rfl
@[simp] theorem State.release_busy (s : State) : (s.release).busy = s.busy := rfl
@[simp] theorem State.release_done (s : State) : (s.release).done = s.done := rfl
@[simp] theorem State.release_err (s : State) : (s.release).err = s.err := rfl
@[simp] theorem State.release_errcode (s : State) : (s.release).errcode = s.errcode := rfl
@[simp] theorem State.release_cur (s : State) : (s.release).cur = Config.freeCur s.drawn := rfl
@[simp] theorem State.release_pending (s : State) : (s.release).pending = s.pending := rfl
@[simp] theorem State.release_answers (s : State) : (s.release).answers = s.answers := rfl
@[simp] theorem State.release_drawn (s : State) : (s.release).drawn = s.drawn + 1 := rfl

/-! ### recordError -/

@[simp] theorem State.recordError_cp (s : State) (e : ErrKind) : (s.recordError e).cp = s.cp := rfl
@[simp] theorem State.recordError_ca (s : State) (e : ErrKind) : (s.recordError e).ca = s.ca := rfl
@[simp] theorem State.recordError_cb (s : State) (e : ErrKind) : (s.recordError e).cb = s.cb := rfl
@[simp] theorem State.recordError_cgx (s : State) (e : ErrKind) : (s.recordError e).cgx = s.cgx := rfl
@[simp] theorem State.recordError_cgy (s : State) (e : ErrKind) : (s.recordError e).cgy = s.cgy := rfl
@[simp] theorem State.recordError_cn (s : State) (e : ErrKind) : (s.recordError e).cn = s.cn := rfl
@[simp] theorem State.recordError_keybits (s : State) (e : ErrKind) : (s.recordError e).keybits = s.keybits := rfl
@[simp] theorem State.recordError_cofactor (s : State) (e : ErrKind) : (s.recordError e).cofactor = s.cofactor := rfl
@[simp] theorem State.recordError_fa (s : State) (e : ErrKind) : (s.recordError e).fa = s.fa := rfl
@[simp] theorem State.recordError_fb (s : State) (e : ErrKind) : (s.recordError e).fb = s.fb := rfl
@[simp] theorem State.recordError_fr (s : State) (e : ErrKind) : (s.recordError e).fr = s.fr := rfl
@[simp] theorem State.recordError_pinf (s : State) (e : ErrKind) : (s.recordError e).pinf = s.pinf := rfl
@[simp] theorem State.recordError_px (s : State) (e : ErrKind) : (s.recordError e).px = s.px := rfl
@[simp] theorem State.recordError_py (s : State) (e : ErrKind) : (s.recordError e).py = s.py := rfl
@[simp] theorem State.recordError_qinf (s : State) (e : ErrKind) : (s.recordError e).qinf = s.qinf := rfl
@[simp] theorem State.recordError_qx (s : State) (e : ErrKind) : (s.recordError e).qx = s.qx := rfl
@[simp] theorem State.recordError_qy (s : State) (e : ErrKind) : (s.recordError e).qy = s.qy := rfl
@[simp] theorem State.recordError_rinf (s : State) (e : ErrKind) : (s.recordError e).rinf = s.rinf := rfl
@[simp] theorem State.recordError_rx (s : State) (e : ErrKind) : (s.recordError e).rx = s.rx := rfl
@[simp] theorem State.recordError_ry (s : State) (e : ErrKind) : (s.recordError e).ry = s.ry := rfl
@[simp] theorem State.recordError_k (s : State) (e : ErrKind) : (s.recordError e).k = s.k := rfl
@[simp] theorem State.recordError_busy (s : State) (e : ErrKind) : (s.recordError e).busy = false := rfl
@[simp] theorem State.recordError_done (s : State) (e : ErrKind) : (s.recordError e).done = true := rfl
@[simp] theorem State.recordError_err (s : State) (e : ErrKind) : (s.recordError e).err = true := rfl
@[simp] theorem State.recordError_errcode (s : State) (e : ErrKind) : (s.recordError e).errcode = e.code := rfl
@[simp] theorem State.recordError_cur (s : State) (e : ErrKind) : (s.recordError e).cur = s.cur := rfl
@[simp] theorem State.recordError_hidden (s : State) (e : ErrKind) : (s.recordError e).hidden = s.hidden := rfl
@[simp] theorem State.recordError_pending (s : State) (e : ErrKind) : (s.recordError e).pending = s.pending := rfl
@[simp] theorem State.recordError_answers (s : State) (e : ErrKind) : (s.recordError e).answers = s.answers := rfl
@[simp] theorem State.recordError_drawn (s : State) (e : ErrKind) : (s.recordError e).drawn = s.drawn := rfl

/-! ### accept -/

@[simp] theorem State.accept_cp (s : State) (c : Word) : (s.accept c).cp = s.cp := rfl
@[simp] theorem State.accept_ca (s : State) (c : Word) : (s.accept c).ca = s.ca := rfl
@[simp] theorem State.accept_cb (s : State) (c : Word) : (s.accept c).cb = s.cb := rfl
@[simp] theorem State.accept_cgx (s : State) (c : Word) : (s.accept c).cgx = s.cgx := rfl
@[simp] theorem State.accept_cgy (s : State) (c : Word) : (s.accept c).cgy = s.cgy := rfl
@[simp] theorem State.accept_cn (s : State) (c : Word) : (s.accept c).cn = s.cn := rfl
@[simp] theorem State.accept_keybits (s : State) (c : Word) : (s.accept c).keybits = s.keybits := rfl
@[simp] theorem State.accept_cofactor (s : State) (c : Word) : (s.accept c).cofactor = s.cofactor := rfl
@[simp] theorem State.accept_fa (s : State) (c : Word) : (s.accept c).fa = s.fa := rfl
@[simp] theorem State.accept_fb (s : State) (c : Word) : (s.accept c).fb = s.fb := rfl
@[simp] theorem State.accept_fr (s : State) (c : Word) : (s.accept c).fr = s.fr := rfl
@[simp] theorem State.accept_pinf (s : State) (c : Word) : (s.accept c).pinf = s.pinf := rfl
@[simp] theorem State.accept_px (s : State) (c : Word) : (s.accept c).px = s.px := rfl
@[simp] theorem State.accept_py (s : State) (c : Word) : (s.accept c).py = s.py := rfl
@[simp] theorem State.accept_qinf (s : State) (c : Word) : (s.accept c).qinf = s.qinf := rfl
@[simp] theorem State.accept_qx (s : State) (c : Word) : (s.accept c).qx = s.qx := rfl
@[simp] theorem State.accept_qy (s : State) (c : Word) : (s.accept c).qy = s.qy := rfl
@[simp] theorem State.accept_rinf (s : State) (c : Word) : (s.accept c).rinf = s.rinf := rfl
@[simp] theorem State.accept_rx (s : State) (c : Word) : (s.accept c).rx = s.rx := rfl
@[simp] theorem State.accept_ry (s : State) (c : Word) : (s.accept c).ry = s.ry := rfl
@[simp] theorem State.accept_k (s : State) (c : Word) : (s.accept c).k = s.k := rfl
@[simp] theorem State.accept_busy (s : State) (c : Word) : (s.accept c).busy = true := rfl
@[simp] theorem State.accept_done (s : State) (c : Word) : (s.accept c).done = false := rfl
@[simp] theorem State.accept_err (s : State) (c : Word) : (s.accept c).err = s.err := rfl
@[simp] theorem State.accept_errcode (s : State) (c : Word) : (s.accept c).errcode = s.errcode := rfl
@[simp] theorem State.accept_cur (s : State) (c : Word) : (s.accept c).cur = c := rfl
@[simp] theorem State.accept_hidden (s : State) (c : Word) : (s.accept c).hidden = s.hidden := rfl
@[simp] theorem State.accept_pending (s : State) (c : Word) : (s.accept c).pending = s.pending := rfl
@[simp] theorem State.accept_answers (s : State) (c : Word) : (s.accept c).answers = s.answers := rfl
@[simp] theorem State.accept_drawn (s : State) (c : Word) : (s.accept c).drawn = s.drawn := rfl

/-! ### succeed -/

@[simp] theorem State.succeed_cp (s : State) : (s.succeed).cp = s.cp := rfl
@[simp] theorem State.succeed_ca (s : State) : (s.succeed).ca = s.ca := rfl
@[simp] theorem State.succeed_cb (s : State) : (s.succeed).cb = s.cb := rfl
@[simp] theorem State.succeed_cgx (s : State) : (s.succeed).cgx = s.cgx := rfl
@[simp] theorem State.succeed_cgy (s : State) : (s.succeed).cgy = s.cgy := rfl
@[simp] theorem State.succeed_cn (s : State) : (s.succeed).cn = s.cn := rfl
@[simp] theorem State.succeed_keybits (s : State) : (s.succeed).keybits = s.keybits := rfl
@[simp] theorem State.succeed_cofactor (s : State) : (s.succeed).cofactor = s.cofactor := rfl
@[simp] theorem State.succeed_fa (s : State) : (s.succeed).fa = s.fa := rfl
@[simp] theorem State.succeed_fb (s : State) : (s.succeed).fb = s.fb := rfl
@[simp] theorem State.succeed_fr (s : State) : (s.succeed).fr = s.fr := rfl
@[simp] theorem State.succeed_pinf (s : State) : (s.succeed).pinf = s.pinf := rfl
@[simp] theorem State.succeed_px (s : State) : (s.succeed).px = s.px := rfl
@[simp] theorem State.succeed_py (s : State) : (s.succeed).py = s.py := rfl
@[simp] theorem State.succeed_qinf (s : State) : (s.succeed).qinf = s.qinf := rfl
@[simp] theorem State.succeed_qx (s : State) : (s.succeed).qx = s.qx := rfl
@[simp] theorem State.succeed_qy (s : State) : (s.succeed).qy = s.qy := rfl
@[simp] theorem State.succeed_rinf (s : State) : (s.succeed).rinf = s.rinf := rfl
@[simp] theorem State.succeed_rx (s : State) : (s.succeed).rx = s.rx := rfl
@[simp] theorem State.succeed_ry (s : State) : (s.succeed).ry = s.ry := rfl
@[simp] theorem State.succeed_k (s : State) : (s.succeed).k = s.k := rfl
@[simp] theorem State.succeed_busy (s : State) : (s.succeed).busy = false := rfl
@[simp] theorem State.succeed_done (s : State) : (s.succeed).done = true := rfl
@[simp] theorem State.succeed_err (s : State) : (s.succeed).err = s.err := rfl
@[simp] theorem State.succeed_errcode (s : State) : (s.succeed).errcode = s.errcode := rfl
@[simp] theorem State.succeed_cur (s : State) : (s.succeed).cur = Config.freeCur s.drawn := rfl
@[simp] theorem State.succeed_pending (s : State) : (s.succeed).pending = s.pending := rfl
@[simp] theorem State.succeed_answers (s : State) : (s.succeed).answers = s.answers := rfl
@[simp] theorem State.succeed_drawn (s : State) : (s.succeed).drawn = s.drawn + 1 := rfl

/-! ### failWith -/

@[simp] theorem State.failWith_cp (s : State) (e : ErrKind) : (s.failWith e).cp = s.cp := rfl
@[simp] theorem State.failWith_ca (s : State) (e : ErrKind) : (s.failWith e).ca = s.ca := rfl
@[simp] theorem State.failWith_cb (s : State) (e : ErrKind) : (s.failWith e).cb = s.cb := rfl
@[simp] theorem State.failWith_cgx (s : State) (e : ErrKind) : (s.failWith e).cgx = s.cgx := rfl
@[simp] theorem State.failWith_cgy (s : State) (e : ErrKind) : (s.failWith e).cgy = s.cgy := rfl
@[simp] theorem State.failWith_cn (s : State) (e : ErrKind) : (s.failWith e).cn = s.cn := rfl
@[simp] theorem State.failWith_keybits (s : State) (e : ErrKind) : (s.failWith e).keybits = s.keybits := rfl
@[simp] theorem State.failWith_cofactor (s : State) (e : ErrKind) : (s.failWith e).cofactor = s.cofactor := rfl
@[simp] theorem State.failWith_fa (s : State) (e : ErrKind) : (s.failWith e).fa = s.fa := rfl
@[simp] theorem State.failWith_fb (s : State) (e : ErrKind) : (s.failWith e).fb = s.fb := rfl
@[simp] theorem State.failWith_fr (s : State) (e : ErrKind) : (s.failWith e).fr = s.fr := rfl
@[simp] theorem State.failWith_pinf (s : State) (e : ErrKind) : (s.failWith e).pinf = s.pinf := rfl
@[simp] theorem State.failWith_px (s : State) (e : ErrKind) : (s.failWith e).px = s.px := rfl
@[simp] theorem State.failWith_py (s : State) (e : ErrKind) : (s.failWith e).py = s.py := rfl
@[simp] theorem State.failWith_qinf (s : State) (e : ErrKind) : (s.failWith e).qinf = s.qinf := rfl
@[simp] theorem State.failWith_qx (s : State) (e : ErrKind) : (s.failWith e).qx = s.qx := rfl
@[simp] theorem State.failWith_qy (s : State) (e : ErrKind) : (s.failWith e).qy = s.qy := rfl
@[simp] theorem State.failWith_rinf (s : State) (e : ErrKind) : (s.failWith e).rinf = s.rinf := rfl
@[simp] theorem State.failWith_rx (s : State) (e : ErrKind) : (s.failWith e).rx = s.rx := rfl
@[simp] theorem State.failWith_ry (s : State) (e : ErrKind) : (s.failWith e).ry = s.ry := rfl
@[simp] theorem State.failWith_k (s : State) (e : ErrKind) : (s.failWith e).k = s.k := rfl
@[simp] theorem State.failWith_busy (s : State) (e : ErrKind) : (s.failWith e).busy = false := rfl
@[simp] theorem State.failWith_done (s : State) (e : ErrKind) : (s.failWith e).done = true := rfl
@[simp] theorem State.failWith_err (s : State) (e : ErrKind) : (s.failWith e).err = true := rfl
@[simp] theorem State.failWith_errcode (s : State) (e : ErrKind) : (s.failWith e).errcode = e.code := rfl
@[simp] theorem State.failWith_cur (s : State) (e : ErrKind) : (s.failWith e).cur = Config.freeCur s.drawn := rfl
@[simp] theorem State.failWith_pending (s : State) (e : ErrKind) : (s.failWith e).pending = s.pending := rfl
@[simp] theorem State.failWith_answers (s : State) (e : ErrKind) : (s.failWith e).answers = s.answers := rfl
@[simp] theorem State.failWith_drawn (s : State) (e : ErrKind) : (s.failWith e).drawn = s.drawn + 1 := rfl

/-! ### writeFR -/

@[simp] theorem State.writeFR_cp (s : State) (v : Nat) : (s.writeFR v).cp = s.cp := rfl
@[simp] theorem State.writeFR_ca (s : State) (v : Nat) : (s.writeFR v).ca = s.ca := rfl
@[simp] theorem State.writeFR_cb (s : State) (v : Nat) : (s.writeFR v).cb = s.cb := rfl
@[simp] theorem State.writeFR_cgx (s : State) (v : Nat) : (s.writeFR v).cgx = s.cgx := rfl
@[simp] theorem State.writeFR_cgy (s : State) (v : Nat) : (s.writeFR v).cgy = s.cgy := rfl
@[simp] theorem State.writeFR_cn (s : State) (v : Nat) : (s.writeFR v).cn = s.cn := rfl
@[simp] theorem State.writeFR_keybits (s : State) (v : Nat) : (s.writeFR v).keybits = s.keybits := rfl
@[simp] theorem State.writeFR_cofactor (s : State) (v : Nat) : (s.writeFR v).cofactor = s.cofactor := rfl
@[simp] theorem State.writeFR_fa (s : State) (v : Nat) : (s.writeFR v).fa = s.fa := rfl
@[simp] theorem State.writeFR_fb (s : State) (v : Nat) : (s.writeFR v).fb = s.fb := rfl
@[simp] theorem State.writeFR_fr (s : State) (v : Nat) : (s.writeFR v).fr = BitVec.ofNat 192 v := rfl
@[simp] theorem State.writeFR_pinf (s : State) (v : Nat) : (s.writeFR v).pinf = s.pinf := rfl
@[simp] theorem State.writeFR_px (s : State) (v : Nat) : (s.writeFR v).px = s.px := rfl
@[simp] theorem State.writeFR_py (s : State) (v : Nat) : (s.writeFR v).py = s.py := rfl
@[simp] theorem State.writeFR_qinf (s : State) (v : Nat) : (s.writeFR v).qinf = s.qinf := rfl
@[simp] theorem State.writeFR_qx (s : State) (v : Nat) : (s.writeFR v).qx = s.qx := rfl
@[simp] theorem State.writeFR_qy (s : State) (v : Nat) : (s.writeFR v).qy = s.qy := rfl
@[simp] theorem State.writeFR_rinf (s : State) (v : Nat) : (s.writeFR v).rinf = s.rinf := rfl
@[simp] theorem State.writeFR_rx (s : State) (v : Nat) : (s.writeFR v).rx = s.rx := rfl
@[simp] theorem State.writeFR_ry (s : State) (v : Nat) : (s.writeFR v).ry = s.ry := rfl
@[simp] theorem State.writeFR_k (s : State) (v : Nat) : (s.writeFR v).k = s.k := rfl
@[simp] theorem State.writeFR_busy (s : State) (v : Nat) : (s.writeFR v).busy = s.busy := rfl
@[simp] theorem State.writeFR_done (s : State) (v : Nat) : (s.writeFR v).done = s.done := rfl
@[simp] theorem State.writeFR_err (s : State) (v : Nat) : (s.writeFR v).err = s.err := rfl
@[simp] theorem State.writeFR_errcode (s : State) (v : Nat) : (s.writeFR v).errcode = s.errcode := rfl
@[simp] theorem State.writeFR_cur (s : State) (v : Nat) : (s.writeFR v).cur = s.cur := rfl
@[simp] theorem State.writeFR_hidden (s : State) (v : Nat) : (s.writeFR v).hidden = s.hidden := rfl
@[simp] theorem State.writeFR_pending (s : State) (v : Nat) : (s.writeFR v).pending = s.pending := rfl
@[simp] theorem State.writeFR_answers (s : State) (v : Nat) : (s.writeFR v).answers = s.answers := rfl
@[simp] theorem State.writeFR_drawn (s : State) (v : Nat) : (s.writeFR v).drawn = s.drawn := rfl

/-! ### loadRow -/

@[simp] theorem State.loadRow_cp (s : State) (row : CurveRow) : (s.loadRow row).cp = row.p := rfl
@[simp] theorem State.loadRow_ca (s : State) (row : CurveRow) : (s.loadRow row).ca = row.a := rfl
@[simp] theorem State.loadRow_cb (s : State) (row : CurveRow) : (s.loadRow row).cb = row.b := rfl
@[simp] theorem State.loadRow_cgx (s : State) (row : CurveRow) : (s.loadRow row).cgx = row.gx := rfl
@[simp] theorem State.loadRow_cgy (s : State) (row : CurveRow) : (s.loadRow row).cgy = row.gy := rfl
@[simp] theorem State.loadRow_cn (s : State) (row : CurveRow) : (s.loadRow row).cn = row.n := rfl
@[simp] theorem State.loadRow_keybits (s : State) (row : CurveRow) : (s.loadRow row).keybits = row.keybits := rfl
@[simp] theorem State.loadRow_cofactor (s : State) (row : CurveRow) : (s.loadRow row).cofactor = row.h := rfl
@[simp] theorem State.loadRow_fa (s : State) (row : CurveRow) : (s.loadRow row).fa = s.fa := rfl
@[simp] theorem State.loadRow_fb (s : State) (row : CurveRow) : (s.loadRow row).fb = s.fb := rfl
@[simp] theorem State.loadRow_fr (s : State) (row : CurveRow) : (s.loadRow row).fr = s.fr := rfl
@[simp] theorem State.loadRow_pinf (s : State) (row : CurveRow) : (s.loadRow row).pinf = s.pinf := rfl
@[simp] theorem State.loadRow_px (s : State) (row : CurveRow) : (s.loadRow row).px = s.px := rfl
@[simp] theorem State.loadRow_py (s : State) (row : CurveRow) : (s.loadRow row).py = s.py := rfl
@[simp] theorem State.loadRow_qinf (s : State) (row : CurveRow) : (s.loadRow row).qinf = s.qinf := rfl
@[simp] theorem State.loadRow_qx (s : State) (row : CurveRow) : (s.loadRow row).qx = s.qx := rfl
@[simp] theorem State.loadRow_qy (s : State) (row : CurveRow) : (s.loadRow row).qy = s.qy := rfl
@[simp] theorem State.loadRow_rinf (s : State) (row : CurveRow) : (s.loadRow row).rinf = s.rinf := rfl
@[simp] theorem State.loadRow_rx (s : State) (row : CurveRow) : (s.loadRow row).rx = s.rx := rfl
@[simp] theorem State.loadRow_ry (s : State) (row : CurveRow) : (s.loadRow row).ry = s.ry := rfl
@[simp] theorem State.loadRow_k (s : State) (row : CurveRow) : (s.loadRow row).k = s.k := rfl
@[simp] theorem State.loadRow_busy (s : State) (row : CurveRow) : (s.loadRow row).busy = s.busy := rfl
@[simp] theorem State.loadRow_done (s : State) (row : CurveRow) : (s.loadRow row).done = s.done := rfl
@[simp] theorem State.loadRow_err (s : State) (row : CurveRow) : (s.loadRow row).err = s.err := rfl
@[simp] theorem State.loadRow_errcode (s : State) (row : CurveRow) : (s.loadRow row).errcode = s.errcode := rfl
@[simp] theorem State.loadRow_cur (s : State) (row : CurveRow) : (s.loadRow row).cur = s.cur := rfl
@[simp] theorem State.loadRow_hidden (s : State) (row : CurveRow) : (s.loadRow row).hidden = s.hidden := rfl
@[simp] theorem State.loadRow_pending (s : State) (row : CurveRow) : (s.loadRow row).pending = s.pending := rfl
@[simp] theorem State.loadRow_answers (s : State) (row : CurveRow) : (s.loadRow row).answers = s.answers := rfl
@[simp] theorem State.loadRow_drawn (s : State) (row : CurveRow) : (s.loadRow row).drawn = s.drawn := rfl

/-! ### answerRead -/

@[simp] theorem State.answerRead_cp (s : State) (w : WordIndex) : (s.answerRead w).cp = s.cp := rfl
@[simp] theorem State.answerRead_ca (s : State) (w : WordIndex) : (s.answerRead w).ca = s.ca := rfl
@[simp] theorem State.answerRead_cb (s : State) (w : WordIndex) : (s.answerRead w).cb = s.cb := rfl
@[simp] theorem State.answerRead_cgx (s : State) (w : WordIndex) : (s.answerRead w).cgx = s.cgx := rfl
@[simp] theorem State.answerRead_cgy (s : State) (w : WordIndex) : (s.answerRead w).cgy = s.cgy := rfl
@[simp] theorem State.answerRead_cn (s : State) (w : WordIndex) : (s.answerRead w).cn = s.cn := rfl
@[simp] theorem State.answerRead_keybits (s : State) (w : WordIndex) : (s.answerRead w).keybits = s.keybits := rfl
@[simp] theorem State.answerRead_cofactor (s : State) (w : WordIndex) : (s.answerRead w).cofactor = s.cofactor := rfl
@[simp] theorem State.answerRead_fa (s : State) (w : WordIndex) : (s.answerRead w).fa = s.fa := rfl
@[simp] theorem State.answerRead_fb (s : State) (w : WordIndex) : (s.answerRead w).fb = s.fb := rfl
@[simp] theorem State.answerRead_fr (s : State) (w : WordIndex) : (s.answerRead w).fr = s.fr := rfl
@[simp] theorem State.answerRead_pinf (s : State) (w : WordIndex) : (s.answerRead w).pinf = s.pinf := rfl
@[simp] theorem State.answerRead_px (s : State) (w : WordIndex) : (s.answerRead w).px = s.px := rfl
@[simp] theorem State.answerRead_py (s : State) (w : WordIndex) : (s.answerRead w).py = s.py := rfl
@[simp] theorem State.answerRead_qinf (s : State) (w : WordIndex) : (s.answerRead w).qinf = s.qinf := rfl
@[simp] theorem State.answerRead_qx (s : State) (w : WordIndex) : (s.answerRead w).qx = s.qx := rfl
@[simp] theorem State.answerRead_qy (s : State) (w : WordIndex) : (s.answerRead w).qy = s.qy := rfl
@[simp] theorem State.answerRead_rinf (s : State) (w : WordIndex) : (s.answerRead w).rinf = s.rinf := rfl
@[simp] theorem State.answerRead_rx (s : State) (w : WordIndex) : (s.answerRead w).rx = s.rx := rfl
@[simp] theorem State.answerRead_ry (s : State) (w : WordIndex) : (s.answerRead w).ry = s.ry := rfl
@[simp] theorem State.answerRead_k (s : State) (w : WordIndex) : (s.answerRead w).k = s.k := rfl
@[simp] theorem State.answerRead_busy (s : State) (w : WordIndex) : (s.answerRead w).busy = s.busy := rfl
@[simp] theorem State.answerRead_done (s : State) (w : WordIndex) : (s.answerRead w).done = s.done := rfl
@[simp] theorem State.answerRead_err (s : State) (w : WordIndex) : (s.answerRead w).err = s.err := rfl
@[simp] theorem State.answerRead_errcode (s : State) (w : WordIndex) : (s.answerRead w).errcode = s.errcode := rfl
@[simp] theorem State.answerRead_cur (s : State) (w : WordIndex) : (s.answerRead w).cur = s.cur := rfl
@[simp] theorem State.answerRead_hidden (s : State) (w : WordIndex) : (s.answerRead w).hidden = s.hidden := rfl
@[simp] theorem State.answerRead_pending (s : State) (w : WordIndex) : (s.answerRead w).pending = s.pending := rfl
@[simp] theorem State.answerRead_answers (s : State) (w : WordIndex) : (s.answerRead w).answers = s.answers ++ [hostRead w s] := rfl
@[simp] theorem State.answerRead_drawn (s : State) (w : WordIndex) : (s.answerRead w).drawn = s.drawn := rfl

/-! ### writePflags -/

@[simp] theorem State.writePflags_cp (s : State) (v : Word) : (writePflags v s).cp = s.cp := rfl
@[simp] theorem State.writePflags_ca (s : State) (v : Word) : (writePflags v s).ca = s.ca := rfl
@[simp] theorem State.writePflags_cb (s : State) (v : Word) : (writePflags v s).cb = s.cb := rfl
@[simp] theorem State.writePflags_cgx (s : State) (v : Word) : (writePflags v s).cgx = s.cgx := rfl
@[simp] theorem State.writePflags_cgy (s : State) (v : Word) : (writePflags v s).cgy = s.cgy := rfl
@[simp] theorem State.writePflags_cn (s : State) (v : Word) : (writePflags v s).cn = s.cn := rfl
@[simp] theorem State.writePflags_keybits (s : State) (v : Word) : (writePflags v s).keybits = s.keybits := rfl
@[simp] theorem State.writePflags_cofactor (s : State) (v : Word) : (writePflags v s).cofactor = s.cofactor := rfl
@[simp] theorem State.writePflags_fa (s : State) (v : Word) : (writePflags v s).fa = s.fa := rfl
@[simp] theorem State.writePflags_fb (s : State) (v : Word) : (writePflags v s).fb = s.fb := rfl
@[simp] theorem State.writePflags_fr (s : State) (v : Word) : (writePflags v s).fr = s.fr := rfl
@[simp] theorem State.writePflags_pinf (s : State) (v : Word) : (writePflags v s).pinf = v.getLsbD 0 := rfl
@[simp] theorem State.writePflags_px (s : State) (v : Word) : (writePflags v s).px = s.px := rfl
@[simp] theorem State.writePflags_py (s : State) (v : Word) : (writePflags v s).py = s.py := rfl
@[simp] theorem State.writePflags_qinf (s : State) (v : Word) : (writePflags v s).qinf = v.getLsbD 1 := rfl
@[simp] theorem State.writePflags_qx (s : State) (v : Word) : (writePflags v s).qx = s.qx := rfl
@[simp] theorem State.writePflags_qy (s : State) (v : Word) : (writePflags v s).qy = s.qy := rfl
@[simp] theorem State.writePflags_rinf (s : State) (v : Word) : (writePflags v s).rinf = s.rinf := rfl
@[simp] theorem State.writePflags_rx (s : State) (v : Word) : (writePflags v s).rx = s.rx := rfl
@[simp] theorem State.writePflags_ry (s : State) (v : Word) : (writePflags v s).ry = s.ry := rfl
@[simp] theorem State.writePflags_k (s : State) (v : Word) : (writePflags v s).k = s.k := rfl
@[simp] theorem State.writePflags_busy (s : State) (v : Word) : (writePflags v s).busy = s.busy := rfl
@[simp] theorem State.writePflags_done (s : State) (v : Word) : (writePflags v s).done = s.done := rfl
@[simp] theorem State.writePflags_err (s : State) (v : Word) : (writePflags v s).err = s.err := rfl
@[simp] theorem State.writePflags_errcode (s : State) (v : Word) : (writePflags v s).errcode = s.errcode := rfl
@[simp] theorem State.writePflags_cur (s : State) (v : Word) : (writePflags v s).cur = s.cur := rfl
@[simp] theorem State.writePflags_hidden (s : State) (v : Word) : (writePflags v s).hidden = s.hidden := rfl
@[simp] theorem State.writePflags_pending (s : State) (v : Word) : (writePflags v s).pending = s.pending := rfl
@[simp] theorem State.writePflags_answers (s : State) (v : Word) : (writePflags v s).answers = s.answers := rfl
@[simp] theorem State.writePflags_drawn (s : State) (v : Word) : (writePflags v s).drawn = s.drawn := rfl

/-! ### resetEvent -/

@[simp] theorem State.resetEvent_cp (s : State) : s.resetEvent.cp = 0 := rfl
@[simp] theorem State.resetEvent_ca (s : State) : s.resetEvent.ca = 0 := rfl
@[simp] theorem State.resetEvent_cb (s : State) : s.resetEvent.cb = 0 := rfl
@[simp] theorem State.resetEvent_cgx (s : State) : s.resetEvent.cgx = 0 := rfl
@[simp] theorem State.resetEvent_cgy (s : State) : s.resetEvent.cgy = 0 := rfl
@[simp] theorem State.resetEvent_cn (s : State) : s.resetEvent.cn = 0 := rfl
@[simp] theorem State.resetEvent_keybits (s : State) : s.resetEvent.keybits = 0 := rfl
@[simp] theorem State.resetEvent_cofactor (s : State) : s.resetEvent.cofactor = 0 := rfl
@[simp] theorem State.resetEvent_fa (s : State) : s.resetEvent.fa = 0 := rfl
@[simp] theorem State.resetEvent_fb (s : State) : s.resetEvent.fb = 0 := rfl
@[simp] theorem State.resetEvent_fr (s : State) : s.resetEvent.fr = 0 := rfl
@[simp] theorem State.resetEvent_pinf (s : State) : s.resetEvent.pinf = false := rfl
@[simp] theorem State.resetEvent_px (s : State) : s.resetEvent.px = 0 := rfl
@[simp] theorem State.resetEvent_py (s : State) : s.resetEvent.py = 0 := rfl
@[simp] theorem State.resetEvent_qinf (s : State) : s.resetEvent.qinf = false := rfl
@[simp] theorem State.resetEvent_qx (s : State) : s.resetEvent.qx = 0 := rfl
@[simp] theorem State.resetEvent_qy (s : State) : s.resetEvent.qy = 0 := rfl
@[simp] theorem State.resetEvent_rinf (s : State) : s.resetEvent.rinf = false := rfl
@[simp] theorem State.resetEvent_rx (s : State) : s.resetEvent.rx = 0 := rfl
@[simp] theorem State.resetEvent_ry (s : State) : s.resetEvent.ry = 0 := rfl
@[simp] theorem State.resetEvent_k (s : State) : s.resetEvent.k = 0 := rfl
@[simp] theorem State.resetEvent_busy (s : State) : s.resetEvent.busy = false := rfl
@[simp] theorem State.resetEvent_done (s : State) : s.resetEvent.done = false := rfl
@[simp] theorem State.resetEvent_err (s : State) : s.resetEvent.err = false := rfl
@[simp] theorem State.resetEvent_errcode (s : State) : s.resetEvent.errcode = 0 := rfl
@[simp] theorem State.resetEvent_cur (s : State) : s.resetEvent.cur = Config.freeCur s.drawn := rfl
@[simp] theorem State.resetEvent_pending (s : State) : s.resetEvent.pending = s.pending := rfl
@[simp] theorem State.resetEvent_answers (s : State) : s.resetEvent.answers = s.answers := rfl
@[simp] theorem State.resetEvent_drawn (s : State) : s.resetEvent.drawn = s.drawn + 1 := rfl

/-! ### writeR -/

@[simp] theorem State.writeR_cp (s : State) (v : Point) : (s.writeR v).cp = s.cp := by cases v <;> rfl
@[simp] theorem State.writeR_ca (s : State) (v : Point) : (s.writeR v).ca = s.ca := by cases v <;> rfl
@[simp] theorem State.writeR_cb (s : State) (v : Point) : (s.writeR v).cb = s.cb := by cases v <;> rfl
@[simp] theorem State.writeR_cgx (s : State) (v : Point) : (s.writeR v).cgx = s.cgx := by cases v <;> rfl
@[simp] theorem State.writeR_cgy (s : State) (v : Point) : (s.writeR v).cgy = s.cgy := by cases v <;> rfl
@[simp] theorem State.writeR_cn (s : State) (v : Point) : (s.writeR v).cn = s.cn := by cases v <;> rfl
@[simp] theorem State.writeR_keybits (s : State) (v : Point) : (s.writeR v).keybits = s.keybits := by cases v <;> rfl
@[simp] theorem State.writeR_cofactor (s : State) (v : Point) : (s.writeR v).cofactor = s.cofactor := by cases v <;> rfl
@[simp] theorem State.writeR_fa (s : State) (v : Point) : (s.writeR v).fa = s.fa := by cases v <;> rfl
@[simp] theorem State.writeR_fb (s : State) (v : Point) : (s.writeR v).fb = s.fb := by cases v <;> rfl
@[simp] theorem State.writeR_fr (s : State) (v : Point) : (s.writeR v).fr = s.fr := by cases v <;> rfl
@[simp] theorem State.writeR_pinf (s : State) (v : Point) : (s.writeR v).pinf = s.pinf := by cases v <;> rfl
@[simp] theorem State.writeR_px (s : State) (v : Point) : (s.writeR v).px = s.px := by cases v <;> rfl
@[simp] theorem State.writeR_py (s : State) (v : Point) : (s.writeR v).py = s.py := by cases v <;> rfl
@[simp] theorem State.writeR_qinf (s : State) (v : Point) : (s.writeR v).qinf = s.qinf := by cases v <;> rfl
@[simp] theorem State.writeR_qx (s : State) (v : Point) : (s.writeR v).qx = s.qx := by cases v <;> rfl
@[simp] theorem State.writeR_qy (s : State) (v : Point) : (s.writeR v).qy = s.qy := by cases v <;> rfl
@[simp] theorem State.writeR_k (s : State) (v : Point) : (s.writeR v).k = s.k := by cases v <;> rfl
@[simp] theorem State.writeR_busy (s : State) (v : Point) : (s.writeR v).busy = s.busy := by cases v <;> rfl
@[simp] theorem State.writeR_done (s : State) (v : Point) : (s.writeR v).done = s.done := by cases v <;> rfl
@[simp] theorem State.writeR_err (s : State) (v : Point) : (s.writeR v).err = s.err := by cases v <;> rfl
@[simp] theorem State.writeR_errcode (s : State) (v : Point) : (s.writeR v).errcode = s.errcode := by cases v <;> rfl
@[simp] theorem State.writeR_cur (s : State) (v : Point) : (s.writeR v).cur = s.cur := by cases v <;> rfl
@[simp] theorem State.writeR_hidden (s : State) (v : Point) : (s.writeR v).hidden = s.hidden := by cases v <;> rfl
@[simp] theorem State.writeR_pending (s : State) (v : Point) : (s.writeR v).pending = s.pending := by cases v <;> rfl
@[simp] theorem State.writeR_answers (s : State) (v : Point) : (s.writeR v).answers = s.answers := by cases v <;> rfl
@[simp] theorem State.writeR_drawn (s : State) (v : Point) : (s.writeR v).drawn = s.drawn := by cases v <;> rfl
@[simp] theorem State.writeR_infinity_rinf (s : State) : (s.writeR .infinity).rinf = true := rfl
@[simp] theorem State.writeR_infinity_rx (s : State) : (s.writeR .infinity).rx = 0 := rfl
@[simp] theorem State.writeR_infinity_ry (s : State) : (s.writeR .infinity).ry = 0 := rfl
@[simp] theorem State.writeR_affine_rinf (s : State) (x y : Nat) : (s.writeR (.affine x y)).rinf = false := rfl
@[simp] theorem State.writeR_affine_rx (s : State) (x y : Nat) : (s.writeR (.affine x y)).rx = BitVec.ofNat 192 x := rfl
@[simp] theorem State.writeR_affine_ry (s : State) (x y : Nat) : (s.writeR (.affine x y)).ry = BitVec.ofNat 192 y := rfl

/-! ### clearError -/

@[simp] theorem State.clearError_cp (s : State) (v : Word) : (s.clearError v).cp = s.cp := by unfold State.clearError; split <;> rfl
@[simp] theorem State.clearError_ca (s : State) (v : Word) : (s.clearError v).ca = s.ca := by unfold State.clearError; split <;> rfl
@[simp] theorem State.clearError_cb (s : State) (v : Word) : (s.clearError v).cb = s.cb := by unfold State.clearError; split <;> rfl
@[simp] theorem State.clearError_cgx (s : State) (v : Word) : (s.clearError v).cgx = s.cgx := by unfold State.clearError; split <;> rfl
@[simp] theorem State.clearError_cgy (s : State) (v : Word) : (s.clearError v).cgy = s.cgy := by unfold State.clearError; split <;> rfl
@[simp] theorem State.clearError_cn (s : State) (v : Word) : (s.clearError v).cn = s.cn := by unfold State.clearError; split <;> rfl
@[simp] theorem State.clearError_keybits (s : State) (v : Word) : (s.clearError v).keybits = s.keybits := by unfold State.clearError; split <;> rfl
@[simp] theorem State.clearError_cofactor (s : State) (v : Word) : (s.clearError v).cofactor = s.cofactor := by unfold State.clearError; split <;> rfl
@[simp] theorem State.clearError_fa (s : State) (v : Word) : (s.clearError v).fa = s.fa := by unfold State.clearError; split <;> rfl
@[simp] theorem State.clearError_fb (s : State) (v : Word) : (s.clearError v).fb = s.fb := by unfold State.clearError; split <;> rfl
@[simp] theorem State.clearError_fr (s : State) (v : Word) : (s.clearError v).fr = s.fr := by unfold State.clearError; split <;> rfl
@[simp] theorem State.clearError_pinf (s : State) (v : Word) : (s.clearError v).pinf = s.pinf := by unfold State.clearError; split <;> rfl
@[simp] theorem State.clearError_px (s : State) (v : Word) : (s.clearError v).px = s.px := by unfold State.clearError; split <;> rfl
@[simp] theorem State.clearError_py (s : State) (v : Word) : (s.clearError v).py = s.py := by unfold State.clearError; split <;> rfl
@[simp] theorem State.clearError_qinf (s : State) (v : Word) : (s.clearError v).qinf = s.qinf := by unfold State.clearError; split <;> rfl
@[simp] theorem State.clearError_qx (s : State) (v : Word) : (s.clearError v).qx = s.qx := by unfold State.clearError; split <;> rfl
@[simp] theorem State.clearError_qy (s : State) (v : Word) : (s.clearError v).qy = s.qy := by unfold State.clearError; split <;> rfl
@[simp] theorem State.clearError_rinf (s : State) (v : Word) : (s.clearError v).rinf = s.rinf := by unfold State.clearError; split <;> rfl
@[simp] theorem State.clearError_rx (s : State) (v : Word) : (s.clearError v).rx = s.rx := by unfold State.clearError; split <;> rfl
@[simp] theorem State.clearError_ry (s : State) (v : Word) : (s.clearError v).ry = s.ry := by unfold State.clearError; split <;> rfl
@[simp] theorem State.clearError_k (s : State) (v : Word) : (s.clearError v).k = s.k := by unfold State.clearError; split <;> rfl
@[simp] theorem State.clearError_busy (s : State) (v : Word) : (s.clearError v).busy = s.busy := by unfold State.clearError; split <;> rfl
@[simp] theorem State.clearError_done (s : State) (v : Word) : (s.clearError v).done = s.done := by unfold State.clearError; split <;> rfl
@[simp] theorem State.clearError_cur (s : State) (v : Word) : (s.clearError v).cur = s.cur := by unfold State.clearError; split <;> rfl
@[simp] theorem State.clearError_hidden (s : State) (v : Word) : (s.clearError v).hidden = s.hidden := by unfold State.clearError; split <;> rfl
@[simp] theorem State.clearError_pending (s : State) (v : Word) : (s.clearError v).pending = s.pending := by unfold State.clearError; split <;> rfl
@[simp] theorem State.clearError_answers (s : State) (v : Word) : (s.clearError v).answers = s.answers := by unfold State.clearError; split <;> rfl
@[simp] theorem State.clearError_drawn (s : State) (v : Word) : (s.clearError v).drawn = s.drawn := by unfold State.clearError; split <;> rfl

/-! ### setBig -/

@[simp] theorem State.setBig_keybits (s : State) (r : BigReg) (v : Big) : (s.setBig r v).keybits = s.keybits := by cases r <;> rfl
@[simp] theorem State.setBig_cofactor (s : State) (r : BigReg) (v : Big) : (s.setBig r v).cofactor = s.cofactor := by cases r <;> rfl
@[simp] theorem State.setBig_pinf (s : State) (r : BigReg) (v : Big) : (s.setBig r v).pinf = s.pinf := by cases r <;> rfl
@[simp] theorem State.setBig_qinf (s : State) (r : BigReg) (v : Big) : (s.setBig r v).qinf = s.qinf := by cases r <;> rfl
@[simp] theorem State.setBig_rinf (s : State) (r : BigReg) (v : Big) : (s.setBig r v).rinf = s.rinf := by cases r <;> rfl
@[simp] theorem State.setBig_busy (s : State) (r : BigReg) (v : Big) : (s.setBig r v).busy = s.busy := by cases r <;> rfl
@[simp] theorem State.setBig_done (s : State) (r : BigReg) (v : Big) : (s.setBig r v).done = s.done := by cases r <;> rfl
@[simp] theorem State.setBig_err (s : State) (r : BigReg) (v : Big) : (s.setBig r v).err = s.err := by cases r <;> rfl
@[simp] theorem State.setBig_errcode (s : State) (r : BigReg) (v : Big) : (s.setBig r v).errcode = s.errcode := by cases r <;> rfl
@[simp] theorem State.setBig_cur (s : State) (r : BigReg) (v : Big) : (s.setBig r v).cur = s.cur := by cases r <;> rfl
@[simp] theorem State.setBig_hidden (s : State) (r : BigReg) (v : Big) : (s.setBig r v).hidden = s.hidden := by cases r <;> rfl
@[simp] theorem State.setBig_pending (s : State) (r : BigReg) (v : Big) : (s.setBig r v).pending = s.pending := by cases r <;> rfl
@[simp] theorem State.setBig_answers (s : State) (r : BigReg) (v : Big) : (s.setBig r v).answers = s.answers := by cases r <;> rfl
@[simp] theorem State.setBig_drawn (s : State) (r : BigReg) (v : Big) : (s.setBig r v).drawn = s.drawn := by cases r <;> rfl

/-- Reading a big register after storing into one. -/
@[simp] theorem State.big_setBig (s : State) (r r' : BigReg) (v : Big) :
    (s.setBig r v).big r' = if r' = r then v else s.big r' := by
  cases r <;> cases r' <;> rfl

/-- Storing the value a register holds changes nothing. -/
@[simp] theorem State.setBig_self (s : State) (r : BigReg) : s.setBig r (s.big r) = s := by
  cases r <;> rfl

end Sys2Proof.Machine
end

