-- ==== Sys2Proof/Laws/Ops.lean ====
section
/-! SUPPORT. What a completion can do, said once: `complete`, the checks before a computation, and every arm of `exec` (30_encoding.md R112, R113; 10_state.md R50). -/

namespace Sys2Proof.Machine

/-- A completion answers a next state: a success with its writes, or error entry alone. -/
theorem complete_cases (s : State) (r : Except ErrKind State) :
    (∃ t, r = .ok t ∧ complete s r = .next t.succeed) ∨
      (∃ e, r = .error e ∧ complete s r = .next (s.failWith e)) := by
  cases r with
  | ok t => exact .inl ⟨t, rfl, rfl⟩
  | error e => exact .inr ⟨e, rfl, rfl⟩

theorem checked_cases (ok : Bool) (r : Except ErrKind State) :
    (ok = true ∧ checked ok r = r) ∨ (ok = false ∧ checked ok r = .error .operandRange) := by
  cases ok
  · exact .inr ⟨rfl, rfl⟩
  · exact .inl ⟨rfl, rfl⟩

/-- An operand that passed the range check is below `CP`. -/
theorem inRange_iff (cp : Big) (regs : List Big) : inRange cp regs = true ↔ ∀ r ∈ regs, r < cp := by
  simp [inRange]

theorem pointInRange_iff (cp : Big) (inf : Bool) (x y : Big) :
    pointInRange cp inf x y = true ↔ (inf = false → x < cp ∧ y < cp) := by
  cases inf <;> simp [pointInRange, inRange]

theorem rangeP_iff (s : State) :
    s.rangeP = true ↔ s.ca < s.cp ∧ (s.pinf = false → s.px < s.cp ∧ s.py < s.cp) := by
  simp only [State.rangeP, Bool.and_eq_true, pointInRange_iff, inRange_iff]
  simp

theorem rangePQ_iff (s : State) :
    s.rangePQ = true ↔ (s.ca < s.cp ∧ (s.pinf = false → s.px < s.cp ∧ s.py < s.cp)) ∧
      (s.qinf = false → s.qx < s.cp ∧ s.qy < s.cp) := by
  simp only [State.rangePQ, Bool.and_eq_true, pointInRange_iff, rangeP_iff]

theorem pos_of_lt {x y : Big} (h : x < y) : 0 < y.toNat := by
  have := BitVec.lt_def.mp h
  omega

/-- A point register that passed its range check holds a point in the field. -/
theorem pointOf_inField {cp : Big} {inf : Bool} {x y : Big} (h : pointInRange cp inf x y = true) :
    InField cp.toNat (pointOf inf x y) := by
  rw [pointInRange_iff] at h
  cases inf
  · exact ⟨BitVec.lt_def.mp (h rfl).1, BitVec.lt_def.mp (h rfl).2⟩
  · trivial

/-- The writes of a command that succeeds (10_state.md R50): `FR` for a field command, R for a point command, the curve registers for LDCURVE, each result in [0, `CP`) (40_field_arithmetic.md R136). -/
def CommandWrites (i : Instr) (s t : State) : Prop :=
  match i with
  | .modadd | .modsub | .modmul | .modsqr | .modinv | .moddiv => ∃ v, v < s.cp.toNat ∧ t = s.writeFR v
  | .padd | .pdbl | .smul => ∃ v, InField s.cp.toNat v ∧ t = s.writeR v
  | .ldcurve cid => ∃ row, romRow cid = some row ∧ t = s.loadRow row

/-- The kinds a command can fail with (30_encoding.md R108). -/
def CommandFailure (i : Instr) (e : ErrKind) : Prop :=
  match i with
  | .modadd | .modsub | .modmul | .modsqr => e = .operandRange
  | .modinv | .moddiv | .padd | .pdbl | .smul => e = .operandRange ∨ e = .noModularInverse
  | .ldcurve _ => e = .curveConstructionError

theorem tryWriteFR_cases (s : State) (r : Except ErrKind Nat) :
    (∃ v, r = .ok v ∧ s.tryWriteFR r = .ok (s.writeFR v)) ∨ (∃ e, r = .error e ∧ s.tryWriteFR r = .error e) := by
  cases r with
  | ok v => exact .inl ⟨v, rfl, rfl⟩
  | error e => exact .inr ⟨e, rfl, rfl⟩

theorem tryWriteR_cases (s : State) (r : Except ErrKind Point) :
    (∃ v, r = .ok v ∧ s.tryWriteR r = .ok (s.writeR v)) ∨ (∃ e, r = .error e ∧ s.tryWriteR r = .error e) := by
  cases r with
  | ok v => exact .inl ⟨v, rfl, rfl⟩
  | error e => exact .inr ⟨e, rfl, rfl⟩

/-- The shape shared by the arms with a range check and a computation. -/
theorem complete_checked_cases (s : State) (ok : Bool) (r : Except ErrKind State) :
    (∃ t, ok = true ∧ r = .ok t ∧ complete s (checked ok r) = .next t.succeed) ∨
    (∃ e, ok = true ∧ r = .error e ∧ complete s (checked ok r) = .next (s.failWith e)) ∨
    (ok = false ∧ complete s (checked ok r) = .next (s.failWith .operandRange)) := by
  obtain ⟨rfl, h⟩ | ⟨rfl, h⟩ := checked_cases ok r
  · obtain ⟨t, hr, hc⟩ | ⟨e, hr, hc⟩ := complete_cases s r
    · exact .inl ⟨t, rfl, hr, by rw [h, hc]⟩
    · exact .inr (.inl ⟨e, rfl, hr, by rw [h, hc]⟩)
  · exact .inr (.inr ⟨rfl, by rw [h]; rfl⟩)

theorem fieldCommand_cases (s : State) (regs : List Big) (hne : regs ≠ []) (v : Nat)
    (hv : 0 < s.cp.toNat → v < s.cp.toNat) :
    (∃ t, (∃ v, v < s.cp.toNat ∧ t = s.writeFR v) ∧
      complete s (checked (inRange s.cp regs) (.ok (s.writeFR v))) = .next t.succeed) ∨
    complete s (checked (inRange s.cp regs) (.ok (s.writeFR v))) = .next (s.failWith .operandRange) := by
  obtain ⟨t, hok, hr, hc⟩ | ⟨e, _, hr, _⟩ | ⟨_, hc⟩ :=
    complete_checked_cases s (inRange s.cp regs) (.ok (s.writeFR v))
  · obtain ⟨r, hmem⟩ := List.exists_mem_of_ne_nil regs hne
    have hp := pos_of_lt ((inRange_iff _ _).mp hok r hmem)
    injection hr with hr
    exact .inl ⟨t, ⟨v, hv hp, hr.symm⟩, hc⟩
  · cases hr
  · exact .inr hc

theorem divCommand_cases (s : State) (regs : List Big) (hne : regs ≠ []) (r : Except ErrKind Nat)
    (hlt : 0 < s.cp.toNat → ∀ v, r = .ok v → v < s.cp.toNat)
    (herr : ∀ e, r = .error e → e = .noModularInverse) :
    (∃ t, (∃ v, v < s.cp.toNat ∧ t = s.writeFR v) ∧
      complete s (checked (inRange s.cp regs) (s.tryWriteFR r)) = .next t.succeed) ∨
    (∃ e, (e = .operandRange ∨ e = .noModularInverse) ∧
      complete s (checked (inRange s.cp regs) (s.tryWriteFR r)) = .next (s.failWith e)) := by
  obtain ⟨t, hok, hr, hc⟩ | ⟨e, _, hr, hc⟩ | ⟨_, hc⟩ :=
    complete_checked_cases s (inRange s.cp regs) (s.tryWriteFR r)
  · obtain ⟨x, hmem⟩ := List.exists_mem_of_ne_nil regs hne
    have hp := pos_of_lt ((inRange_iff _ _).mp hok x hmem)
    obtain ⟨v, hv, hw⟩ | ⟨e, _, hw⟩ := tryWriteFR_cases s r
    · rw [hw] at hr; injection hr with hr
      exact .inl ⟨t, ⟨v, hlt hp v hv, hr.symm⟩, hc⟩
    · rw [hw] at hr; cases hr
  · obtain ⟨v, _, hw⟩ | ⟨e', he, hw⟩ := tryWriteFR_cases s r
    · rw [hw] at hr; cases hr
    · rw [hw] at hr; injection hr with hr
      exact .inr ⟨e, .inr (hr ▸ herr e' he), hc⟩
  · exact .inr ⟨.operandRange, .inl rfl, hc⟩

theorem pointCommand_cases (s : State) (ok : Bool) (r : Except ErrKind Point)
    (hr : ok = true → (∃ v, r = .ok v ∧ InField s.cp.toNat v) ∨ r = .error .noModularInverse) :
    (∃ t, (∃ v, InField s.cp.toNat v ∧ t = s.writeR v) ∧
      complete s (checked ok (s.tryWriteR r)) = .next t.succeed) ∨
    (∃ e, (e = .operandRange ∨ e = .noModularInverse) ∧
      complete s (checked ok (s.tryWriteR r)) = .next (s.failWith e)) := by
  cases ok with
  | false => exact .inr ⟨_, .inl rfl, rfl⟩
  | true =>
    obtain ⟨v, rfl, hv⟩ | rfl := hr rfl
    · exact .inl ⟨_, ⟨v, hv, rfl⟩, rfl⟩
    · exact .inr ⟨_, .inr rfl, rfl⟩

theorem rangeP_pos {s : State} (h : s.rangeP = true) : 0 < s.cp.toNat := pos_of_lt ((rangeP_iff s).mp h).1

theorem rangeP_inField {s : State} (h : s.rangeP = true) : InField s.cp.toNat s.pointP := by
  simp only [State.rangeP, Bool.and_eq_true] at h
  exact pointOf_inField h.2

theorem rangePQ_inField {s : State} (h : s.rangePQ = true) : InField s.cp.toNat s.pointQ := by
  simp only [State.rangePQ, Bool.and_eq_true] at h
  exact pointOf_inField h.2

/-- PADD in range is the completion with `padd` of its two points (42_group_law.md R169). -/
theorem exec_padd {s : State} (h : s.rangePQ = true) :
    exec .padd s = complete s (s.tryWriteR (padd s.pointP s.pointQ s.ca.toNat s.cp.toNat)) := by
  change execPadd s = _
  unfold execPadd
  rw [h]
  rfl

/-- PDBL in range is the completion with `pdbl` of P (42_group_law.md R170). -/
theorem exec_pdbl {s : State} (h : s.rangeP = true) :
    exec .pdbl s = complete s (s.tryWriteR (pdbl s.pointP s.ca.toNat s.cp.toNat)) := by
  change execPdbl s = _
  unfold execPdbl
  rw [h]
  rfl

/-- SMUL in range is the completion with `smul` of P and `K` (43_scalar_mult.md R191). -/
theorem exec_smul {s : State} (h : s.rangeP = true) :
    exec .smul s = complete s (s.tryWriteR (smul s.pointP s.k.toNat s.ca.toNat s.cp.toNat)) := by
  change execSmul s = _
  unfold execSmul
  rw [h]
  rfl

/-- EVERY COMMAND ENDS IN A NEXT STATE: a success with the command's writes, or error entry with one of the command's kinds. -/
theorem exec_cases (i : Instr) (s : State) :
    (∃ t, CommandWrites i s t ∧ exec i s = .next t.succeed) ∨
      (∃ e, CommandFailure i e ∧ exec i s = .next (s.failWith e)) := by
  have fieldArm : ∀ {P : Prop}, (P ∨ exec i s = .next (s.failWith .operandRange)) →
      CommandFailure i .operandRange → (P ∨ ∃ e, CommandFailure i e ∧ exec i s = .next (s.failWith e)) :=
    fun h hf => h.imp id fun h => ⟨_, hf, h⟩
  cases i with
  | modadd => exact fieldArm (fieldCommand_cases s [s.fa, s.fb] (by simp) _ (fadd_lt _ _)) rfl
  | modsub => exact fieldArm (fieldCommand_cases s [s.fa, s.fb] (by simp) _ (fsub_lt _ _)) rfl
  | modmul => exact fieldArm (fieldCommand_cases s [s.fa, s.fb] (by simp) _ (fmul_lt _ _)) rfl
  | modsqr => exact fieldArm (fieldCommand_cases s [s.fa] (by simp) _ (fmul_lt _ _)) rfl
  | modinv =>
    exact divCommand_cases s [s.fb] (by simp) _ (fun hp _ h => finv_lt hp h) (fun _ h => (finv_error h).1)
  | moddiv =>
    exact divCommand_cases s [s.fa, s.fb] (by simp) _ (fun hp _ h => fdiv_lt hp h) (fun _ h => (fdiv_error h).1)
  | padd =>
    refine pointCommand_cases s s.rangePQ _ fun h => ?_
    have hP : s.rangeP = true := by simp only [State.rangePQ, Bool.and_eq_true] at h; exact h.1
    exact padd_cases (rangeP_pos hP) (rangeP_inField hP) (rangePQ_inField h)
  | pdbl => exact pointCommand_cases s s.rangeP _ fun h => pdbl_cases (rangeP_pos h)
  | smul => exact pointCommand_cases s s.rangeP _ fun h => smul_cases _ (rangeP_pos h) (rangeP_inField h)
  | ldcurve cid =>
    change (∃ t, _ ∧ execLdcurve cid s = _) ∨ ∃ e, _ ∧ execLdcurve cid s = _
    unfold execLdcurve
    cases h : romRow cid with
    | none => exact .inr ⟨_, rfl, rfl⟩
    | some row => exact .inl ⟨_, ⟨row, h, rfl⟩, rfl⟩

end Sys2Proof.Machine
end

