-- ==== Sys2Proof/Laws/PerInstr.lean ====
section
/-! SUPPORT. What holds of every command as syntax, one lemma per constructor: its word selects its row of 30_encoding.md R103 and carries its three fields (R101). -/

namespace Sys2Proof.Laws.TableRow

/-- The word of a well-formed command satisfies `c AND mask = match` of its own row, and reads back as `ZERO` = 0, its `IMM` and its `OP`. -/
def Statement (i : Instr) : Prop :=
  i.wellFormed = true →
    selectsRow (encode i) i ∧ zeroField (encode i) = 0#16 ∧ immField (encode i) = immOf i ∧ opField (encode i) = opcodeOf i

theorem modadd : Statement .modadd := fun _ => ⟨by decide, by decide, by decide, by decide⟩

theorem modsub : Statement .modsub := fun _ => ⟨by decide, by decide, by decide, by decide⟩

theorem modmul : Statement .modmul := fun _ => ⟨by decide, by decide, by decide, by decide⟩

theorem modsqr : Statement .modsqr := fun _ => ⟨by decide, by decide, by decide, by decide⟩

theorem modinv : Statement .modinv := fun _ => ⟨by decide, by decide, by decide, by decide⟩

theorem moddiv : Statement .moddiv := fun _ => ⟨by decide, by decide, by decide, by decide⟩

theorem padd : Statement .padd := fun _ => ⟨by decide, by decide, by decide, by decide⟩

theorem pdbl : Statement .pdbl := fun _ => ⟨by decide, by decide, by decide, by decide⟩

theorem smul : Statement .smul := fun _ => ⟨by decide, by decide, by decide, by decide⟩

theorem ldcurve (cid : Nat) : Statement (.ldcurve cid) := fun _ =>
  ⟨(ldcurveRow_iff _).mpr ⟨zeroField_encode _, opField_encode _⟩, zeroField_encode _, immField_encode _, opField_encode _⟩

end Sys2Proof.Laws.TableRow
end

