-- ==== Sys2Proof/Laws/Port.lean ====
section
/-! SUPPORT. What the host port does: words of a big register (20_memory.md R73), where each offset leads (R72), what a read and a write can do (R77, R78), and what one step can do (R84). -/

namespace Sys2Proof.Machine

/-- The mask of one word has its low 32 bits set. -/
theorem wordMask_getLsbD (i : Nat) : (0xFFFFFFFF#192).getLsbD i = decide (i < 32) := by
  have h : (0xFFFFFFFF#192) = (BitVec.allOnes 32).setWidth 192 := by decide
  rw [h, BitVec.getLsbD_setWidth, BitVec.getLsbD_allOnes]
  by_cases hi : i < 32
  · have : i < 192 := by omega
    simp [hi, this]
  · simp [hi]

/-- One bit of a register after word j was stored: the word's bit inside the word's place, its own bit outside. -/
theorem setBigWord_getLsbD (x : Big) (j : Nat) (v : Word) {n : Nat} (hn : n < 192) :
    (setBigWord x j v).getLsbD n =
      if 160 - 32 * j ≤ n ∧ n < 160 - 32 * j + 32 then v.getLsbD (n - (160 - 32 * j)) else x.getLsbD n := by
  unfold setBigWord
  rw [BitVec.getLsbD_or, BitVec.getLsbD_and, BitVec.getLsbD_not, BitVec.getLsbD_shiftLeft, BitVec.getLsbD_shiftLeft,
    BitVec.getLsbD_setWidth, wordMask_getLsbD]
  have h0 : n - (160 - 32 * j) < 192 := by omega
  simp only [hn, h0, decide_true, Bool.true_and]
  by_cases h1 : n < 160 - 32 * j
  · have h2 : ¬ (160 - 32 * j ≤ n ∧ n < 160 - 32 * j + 32) := by omega
    rw [if_neg h2]
    simp [h1]
  · by_cases h3 : n - (160 - 32 * j) < 32
    · have h2 : 160 - 32 * j ≤ n ∧ n < 160 - 32 * j + 32 := by omega
      rw [if_pos h2]
      simp [h1, h3]
    · have h2 : ¬ (160 - 32 * j ≤ n ∧ n < 160 - 32 * j + 32) := by omega
      rw [if_neg h2, BitVec.getLsbD_of_ge v _ (by omega)]
      simp [h1, h3]

/-- Word j read back after storing it. -/
theorem bigWord_setBigWord_same (x : Big) (v : Word) {j : Nat} (hj : j < 6) :
    bigWord (setBigWord x j v) j = v := by
  unfold bigWord
  apply BitVec.eq_of_getLsbD_eq
  intro i hi
  rw [BitVec.getLsbD_extractLsb', setBigWord_getLsbD x j v (by omega), if_pos (by omega)]
  simp only [hi, decide_true, Bool.true_and]
  congr 1
  omega

/-- Storing word j leaves every other word. -/
theorem bigWord_setBigWord_other (x : Big) (v : Word) {i j : Nat} (hi : i < 6) (hj : j < 6) (h : i ≠ j) :
    bigWord (setBigWord x j v) i = bigWord x i := by
  unfold bigWord
  apply BitVec.eq_of_getLsbD_eq
  intro n hn
  rw [BitVec.getLsbD_extractLsb', BitVec.getLsbD_extractLsb', setBigWord_getLsbD x j v (by omega),
    if_neg (by omega)]

/-- A big register is the sum of its six words, the first the most significant (20_memory.md R73). -/
theorem toNat_eq_words (x : Big) :
    x.toNat = (bigWord x 0).toNat * 2 ^ 160 + (bigWord x 1).toNat * 2 ^ 128 + (bigWord x 2).toNat * 2 ^ 96 +
      (bigWord x 3).toNat * 2 ^ 64 + (bigWord x 4).toNat * 2 ^ 32 + (bigWord x 5).toNat := by
  have h := x.isLt
  simp only [bigWord, BitVec.extractLsb'_toNat, Nat.shiftRight_eq_div_pow]
  omega

/-- The offset of word j of a big register leads to that word. -/
theorem locate_bigRegs (r : BigReg) {j : Nat} (hj : j < 6) : locate bigRegs (baseOf r + 4 * j) = some (r, j) := by
  have h : ∀ j : Fin 6, locate bigRegs (baseOf r + 4 * j.val) = some (r, j.val) := by cases r <;> decide
  exact h ⟨j, hj⟩

/-- Only that offset leads to it. -/
theorem locate_bigRegs_inv {w : WordIndex} {r : BigReg} {j : Nat} (h : locate bigRegs (4 * w.val) = some (r, j)) :
    j < 6 ∧ 4 * w.val = baseOf r + 4 * j := by
  have hall : ∀ w : WordIndex, ∀ rj, locate bigRegs (4 * w.val) = some rj →
      rj.2 < 6 ∧ 4 * w.val = baseOf rj.1 + 4 * rj.2 := by
    intro w
    have : ∀ w : WordIndex, (match locate bigRegs (4 * w.val) with
        | some rj => decide (rj.2 < 6 ∧ 4 * w.val = baseOf rj.1 + 4 * rj.2)
        | none => true) = true := by decide +kernel
    intro rj hrj
    have hw := this w
    rw [hrj] at hw
    simpa using hw
  exact hall w _ h

/-- A writable word is a word of a writable register. -/
theorem locate_rwBig (w : WordIndex) :
    locate rwBig (4 * w.val) =
      (match locate bigRegs (4 * w.val) with
      | some (r, j) => if r.hostWritable then some (r, j) else none
      | none => none) := by
  revert w
  decide +kernel

theorem wordAt_val {off : Nat} (h : off < 0x400) : (wordAt off).val = off / 4 := by
  simp only [wordAt, Fin.val_ofNat]
  omega

/-- Reading word j of a big register. -/
theorem hostRead_bigReg (s : State) (r : BigReg) {j : Nat} (hj : j < 6) :
    hostRead (wordAt (baseOf r + 4 * j)) s = bigWord (s.big r) j := by
  have hb : 0x20 ≤ baseOf r ∧ baseOf r ≤ 0x200 ∧ baseOf r % 4 = 0 := by cases r <;> decide
  have hv : 4 * (wordAt (baseOf r + 4 * j)).val = baseOf r + 4 * j := by
    rw [wordAt_val (by omega)]; omega
  unfold hostRead
  simp only [hv, locate_bigRegs r hj]
  rw [if_neg (by omega), if_neg (by omega), if_neg (by omega), if_neg (by omega), if_neg (by omega)]

/-- A big register read back after storing into it. -/
theorem big_setBig_same (s : State) (r : BigReg) (v : Big) : (s.setBig r v).big r = v := by
  cases r <;> rfl

/-- Storing into a big register leaves every other big register. -/
theorem big_setBig_other (s : State) {r r' : BigReg} (v : Big) (h : r' ≠ r) : (s.setBig r v).big r' = s.big r' := by
  cases r <;> cases r' <;> first | rfl | exact absurd rfl h

/-- A read depends on the registers, tags and status bits only. -/
theorem hostRead_congr {s t : State} (w : WordIndex) (hb : ∀ r, s.big r = t.big r)
    (hs : statusWord s = statusWord t) (hp : pflagsWord s = pflagsWord t) (hk : s.keybits = t.keybits)
    (hc : s.cofactor = t.cofactor) : hostRead w s = hostRead w t := by
  unfold hostRead
  simp only [hs, hp, hk, hc]
  split <;> [rfl; skip]
  split <;> [rfl; skip]
  split <;> [rfl; skip]
  split <;> [rfl; skip]
  split <;> [rfl; skip]
  split
  · rw [hb]
  · rfl

/-- EVERYTHING A HOST WRITE CAN DO (20_memory.md R78). -/
theorem hostWrite_cases (w : WordIndex) (v : Word) (s : State) :
    (4 * w.val = 0x004 ∧ hostWrite w v s = s.clearError v) ∨
    (hostWrite w v s = s) ∨
    (s.busy = false ∧ 4 * w.val = 0x000 ∧ hostWrite w v s = issue v s) ∨
    (s.busy = false ∧ 4 * w.val = 0x008 ∧ hostWrite w v s = writePflags v s) ∨
    (s.busy = false ∧ 4 * w.val = 0x00C ∧ hostWrite w v s = { s with keybits := v }) ∨
    (s.busy = false ∧ 4 * w.val = 0x010 ∧ hostWrite w v s = { s with cofactor := v }) ∨
    (∃ r j, s.busy = false ∧ r.hostWritable = true ∧ j < 6 ∧ 4 * w.val = baseOf r + 4 * j ∧
      hostWrite w v s = s.setBig r (setBigWord (s.big r) j v)) := by
  unfold hostWrite
  simp only
  split
  · next h => exact .inl ⟨h, rfl⟩
  · split
    · exact .inr (.inl rfl)
    · next hbusy =>
      have hbusy : s.busy = false := by simpa using hbusy
      split
      · next h => exact .inr (.inr (.inl ⟨hbusy, h, rfl⟩))
      · split
        · next h => exact .inr (.inr (.inr (.inl ⟨hbusy, h, rfl⟩)))
        · split
          · next h => exact .inr (.inr (.inr (.inr (.inl ⟨hbusy, h, rfl⟩))))
          · split
            · next h => exact .inr (.inr (.inr (.inr (.inr (.inl ⟨hbusy, h, rfl⟩)))))
            · rw [locate_rwBig]
              cases hl : locate bigRegs (4 * w.val) with
              | none => exact .inr (.inl rfl)
              | some rj =>
                obtain ⟨r, j⟩ := rj
                obtain ⟨hj, he⟩ := locate_bigRegs_inv hl
                cases hw : r.hostWritable with
                | false => simp [hw]
                | true =>
                  refine .inr (.inr (.inr (.inr (.inr (.inr ⟨r, j, hbusy, hw, hj, he, ?_⟩)))))
                  simp [hw]

/-- Everything the issue of a word can do (30_encoding.md R110, R111). -/
theorem issue_cases (c : Word) (s : State) :
    (s.err = true ∧ issue c s = s) ∨
    (s.err = false ∧ (∃ e, decode c = .error e) ∧ issue c s = s.recordError .illegalCommand) ∨
    (s.err = false ∧ (∃ i, decode c = .ok i) ∧ issue c s = s.accept c) := by
  unfold issue
  cases he : s.err with
  | true => exact .inl ⟨rfl, by simp⟩
  | false =>
    cases hd : decode c with
    | error e => exact .inr (.inl ⟨rfl, ⟨e, rfl⟩, by simp⟩)
    | ok i => exact .inr (.inr ⟨rfl, ⟨i, rfl⟩, by simp⟩)

/-- Everything the engine's turn can do. -/
theorem engineTurn_cases (s : State) :
    (s.busy = false ∧ engineTurn s = .next s) ∨
    (∃ i, s.busy = true ∧ decode s.cur = .ok i ∧ engineTurn s = exec i s) ∨
    (∃ e, s.busy = true ∧ decode s.cur = .error e ∧ engineTurn s = .fault .curNotACommand) := by
  unfold engineTurn
  cases hb : s.busy with
  | false => exact .inl ⟨rfl, by simp⟩
  | true =>
    cases hd : decode s.cur with
    | ok i => exact .inr (.inl ⟨i, rfl, rfl, by simp⟩)
    | error e => exact .inr (.inr ⟨e, rfl, rfl, by simp⟩)

/-- EVERYTHING A STEP CAN DO: the engine's turn, or the next event. -/
theorem step_cases (s : State) :
    (s.pending = [] ∧ step s = engineTurn s) ∨
    (∃ rest, s.pending = .engine :: rest ∧ step s = engineTurn { s with pending := rest }) ∨
    (∃ w rest, s.pending = .hostRead w :: rest ∧ step s = .next (State.answerRead { s with pending := rest } w)) ∨
    (∃ w v rest, s.pending = .hostWrite w v :: rest ∧ step s = .next (hostWrite w v { s with pending := rest })) ∨
    (∃ rest, s.pending = .reset :: rest ∧ step s = .next (State.resetEvent { s with pending := rest })) := by
  unfold step
  cases hp : s.pending with
  | nil => exact .inl ⟨rfl, rfl⟩
  | cons e rest =>
    cases e with
    | engine => exact .inr (.inl ⟨rest, rfl, rfl⟩)
    | hostRead w => exact .inr (.inr (.inl ⟨w, rest, rfl, rfl⟩))
    | hostWrite w v => exact .inr (.inr (.inr (.inl ⟨w, v, rest, rfl, rfl⟩)))
    | reset => exact .inr (.inr (.inr (.inr ⟨rest, rfl, rfl⟩)))

end Sys2Proof.Machine
end

