-- ==== Sys2Proof/Tests/Slice0.lean ====
section
/-! SUPPORT. The model's own tests: expected values from 95_test_vectors.md and the rules' worked examples, each on one step; and for each statement with hypotheses a witness that meets them. -/

namespace Sys2Proof.Tests

open Sys2Proof.Machine Sys2Proof.Stated

set_option Elab.async false

/-! ### Well-formedness and encoding -/

theorem test_wellFormed_refuses_cid_256 : (Instr.ldcurve 256).wellFormed = false := by decide

theorem test_wellFormed_takes_cid_255 : (Instr.ldcurve 255).wellFormed = true := by decide

/-- Words written out bit by bit from the fields of 30_encoding.md R101 and the opcodes of R103: `ZERO`, `IMM`, `OP`. -/
theorem test_decode_modadd : decode 0b00000000000000000000000000000001#32 = .ok .modadd := by decide

theorem test_decode_modsub : decode 0b00000000000000000000000000000010#32 = .ok .modsub := by decide

theorem test_decode_modmul : decode 0b00000000000000000000000000000011#32 = .ok .modmul := by decide

theorem test_decode_modsqr : decode 0b00000000000000000000000000000100#32 = .ok .modsqr := by decide

theorem test_decode_modinv : decode 0b00000000000000000000000000000101#32 = .ok .modinv := by decide

theorem test_decode_moddiv : decode 0b00000000000000000000000000000110#32 = .ok .moddiv := by decide

theorem test_decode_padd : decode 0b00000000000000000000000000010000#32 = .ok .padd := by decide

theorem test_decode_pdbl : decode 0b00000000000000000000000000010001#32 = .ok .pdbl := by decide

theorem test_decode_smul : decode 0b00000000000000000000000000010010#32 = .ok .smul := by decide

theorem test_decode_ldcurve : decode 0b00000000000000001010010100100000#32 = .ok (.ldcurve 0xA5) := by decide

/-- The encodings of 30_encoding.md R103: LDCURVE's word is 0x0000cc20. -/
theorem test_encode_ldcurve : encode (.ldcurve 0xA5) = 0x0000A520#32 := by decide

theorem test_decodeTableWord :
    decodeTableWord 32 0x00000120 = some (.ldcurve 1) ∧ decodeTableWord 32 0x00010001 = none ∧
      decodeTableWord 8 0x12 = some .smul ∧ decodeTableWord 32 (2 ^ 32 + 1) = none := by decide

/-- The window of 00_scope.md R8 is 256 words (20_memory.md R70), a big register six (R31), and the ROM's rows are 0 and 1 (R83). -/
theorem test_parameters :
    4 * 256 = Config.windowBytes ∧ Config.bigWidth = 6 * 32 ∧ ∀ cid < 8, (romRow cid).isSome = decide (cid < Config.numCurves) := by
  decide

/-! ### Each command: 95_test_vectors.md Part 2 -/

/-- `STATUS` and `FR` after a step. -/
def fieldResult (r : Result) : Option (Word × Big) :=
  match r with
  | .next t => some (statusWord t, t.fr)
  | .fault _ => none
  | .refused _ => none

/-- `STATUS`, `PFLAGS` and the coordinates of R after a step. -/
def pointResult (r : Result) : Option (Word × Word × Big × Big) :=
  match r with
  | .next t => some (statusWord t, pflagsWord t, t.rx, t.ry)
  | .fault _ => none
  | .refused _ => none

/-- Field operands under a modulus; `FR` holds 77. -/
def fieldState (p a b : Big) : State := { State.reset with cp := p, fa := a, fb := b, fr := 77 }

/-- Affine points P and Q and a scalar under E17 (42_group_law.md), R holding (77, 78). -/
def e17 (x1 y1 x2 y2 k : Big) : State :=
  { State.reset with
    cp := 17, ca := 2, cb := 2, cgx := 5, cgy := 1, cn := 19, px := x1, py := y1, qx := x2, qy := y2, k := k,
    rx := 77, ry := 78 }

/-- V-FA-8 and V-FA-18: the sum passes the modulus, also past 192 bits. -/
theorem test_modadd :
    fieldResult (exec .modadd (fieldState 17 16 16)) = some (0x002, 15) ∧
    fieldResult (exec .modadd (fieldState secp192r1.p (secp192r1.p - 1) (secp192r1.p - 1))) =
      some (0x002, 0xFFFFFFFFFFFFFFFFFFFFFFFFFFFFFFFEFFFFFFFFFFFFFFFD#192) := by decide +kernel

/-- V-FA-5: an operand equal to `CP` is out of range, and `FR` stays. -/
theorem test_modadd_range : fieldResult (exec .modadd (fieldState 17 17 0)) = some (0x606, 77) := by decide +kernel

/-- V-FA-2, V-FA-15: the minuend is `FA`. -/
theorem test_modsub :
    fieldResult (exec .modsub (fieldState 17 3 12)) = some (0x002, 8) ∧
    fieldResult (exec .modsub (fieldState secp192r1.p secp192r1.gy secp192r1.gx)) =
      some (0x002, 0xEE8B83874F984981E650F102278345D37EFA6CA39B7A37FE#192) := by decide +kernel

/-- V-FA-3, V-FA-16. -/
theorem test_modmul :
    fieldResult (exec .modmul (fieldState 17 9 12)) = some (0x002, 6) ∧
    fieldResult (exec .modmul (fieldState secp192r1.p secp192r1.gx secp192r1.gy)) =
      some (0x002, 0xBD39D887EA100E867852B1025D381B171238D62383393BE8#192) := by decide +kernel

/-- V-FA-4, V-FA-25: `FB` is not read. -/
theorem test_modsqr :
    fieldResult (exec .modsqr (fieldState 17 13 99)) = some (0x002, 16) ∧
    fieldResult (exec .modsqr (fieldState secp192k1.p secp192k1.gx 0)) =
      some (0x002, 0x3037A92F9F89110ED8087C2B7C7451B3C99A270843ADF52E#192) := by decide +kernel

/-- V-IN-1, V-IN-15: `FA` is not read. -/
theorem test_modinv :
    fieldResult (exec .modinv (fieldState 17 99 5)) = some (0x002, 7) ∧
    fieldResult (exec .modinv (fieldState secp192r1.p 0 secp192r1.gx)) =
      some (0x002, 0xB795B95D7223F479006482A6C2CA3AEFF26BD26F296CC506#192) := by decide +kernel

/-- V-IN-10, V-IN-11, V-IN-12: composite modulus, and modulus 1. -/
theorem test_modinv_corners :
    fieldResult (exec .modinv (fieldState 15 0 6)) = some (0x306, 77) ∧
    fieldResult (exec .modinv (fieldState 15 0 7)) = some (0x002, 13) ∧
    fieldResult (exec .modinv (fieldState 1 0 0)) = some (0x002, 0) := by decide +kernel

/-- V-IN-2, V-IN-18. -/
theorem test_moddiv :
    fieldResult (exec .moddiv (fieldState 17 3 5)) = some (0x002, 4) ∧
    fieldResult (exec .moddiv (fieldState secp192r1.p secp192r1.gy secp192r1.gx)) =
      some (0x002, 0x6741E849057B42D5C38D71E155B64ED1B7450F96BD201124#192) := by decide +kernel

/-- V-IN-5: 0 divided by 0 fails. -/
theorem test_moddiv_zero : fieldResult (exec .moddiv (fieldState 17 0 0)) = some (0x306, 77) := by decide +kernel

/-- V-PA-1, V-PA-3, V-PA-5, V-PA-15, V-PA-16: chord, delegated doubling, opposite points, unrelated y, out of range. -/
theorem test_padd :
    pointResult (exec .padd (e17 5 1 6 3 0)) = some (0x002, 0, 10, 6) ∧
    pointResult (exec .padd (e17 5 1 5 1 0)) = some (0x002, 0, 6, 3) ∧
    pointResult (exec .padd (e17 5 1 5 16 0)) = some (0x002, 4, 0, 0) ∧
    pointResult (exec .padd (e17 5 1 5 2 0)) = some (0x306, 0, 77, 78) ∧
    pointResult (exec .padd (e17 17 1 5 1 0)) = some (0x606, 0, 77, 78) := by decide +kernel

/-- V-PA-7, V-PA-11: coordinates beside a set tag are ignored; (0, 0) on T17 is no identity. -/
theorem test_padd_identity :
    pointResult (exec .padd { e17 5 1 99 99 0 with qinf := true }) = some (0x002, 2, 5, 1) ∧
    pointResult (exec .padd { e17 0 0 4 0 0 with ca := 1 }) = some (0x002, 0, 13, 0) := by decide +kernel

/-- V-PA-2, V-PA-9, V-PA-18: tangent, vertical tangent, denominator without an inverse. -/
theorem test_pdbl :
    pointResult (exec .pdbl (e17 5 1 99 99 0)) = some (0x002, 0, 6, 3) ∧
    pointResult (exec .pdbl { e17 4 0 0 0 0 with ca := 1 }) = some (0x002, 4, 0, 0) ∧
    pointResult (exec .pdbl { e17 1 3 0 0 0 with cp := 15, ca := 0 }) = some (0x306, 0, 77, 78) := by decide +kernel

/-- V-PA-20: PDBL of secp192k1's generator. -/
theorem test_pdbl_k1 :
    pointResult (exec .pdbl { e17 secp192k1.gx secp192k1.gy 0 0 0 with cp := secp192k1.p, ca := secp192k1.a }) =
      some (0x002, 0, 0xF091CF6331B1747684F5D2549CD1D4B3A8BED93B94F93CB6#192,
        0xFD7AF42E1E7565A02E6268661C5E42E603DA2D98A18F2ED5#192) := by decide +kernel

/-- V-SM-4, V-SM-1, V-SM-21, V-SM-19: bits from the least significant, k = 0, the trailing doubling, the range check first. -/
theorem test_smul :
    pointResult (exec .smul (e17 5 1 0 0 6)) = some (0x002, 0, 16, 13) ∧
    pointResult (exec .smul (e17 5 1 0 0 0)) = some (0x002, 4, 0, 0) ∧
    pointResult (exec .smul { e17 1 3 0 0 1 with cp := 15, ca := 0 }) = some (0x306, 0, 77, 78) ∧
    pointResult (exec .smul (e17 17 1 0 0 0)) = some (0x606, 0, 77, 78) := by decide +kernel

/-- V-SM-14: 5·G on secp192r1. -/
theorem test_smul_r1 :
    pointResult (exec .smul { e17 secp192r1.gx secp192r1.gy 0 0 5 with cp := secp192r1.p, ca := secp192r1.a }) =
      some (0x002, 0, 0x10BB8E9840049B183E078D9C300E1605590118EBDD7FF590#192,
        0x31361008476F917BADC9F836E62762BE312B72543CCEAEA1#192) := by decide +kernel

/-- `STATUS`, `CP`'s word 3 and `CGX`'s word 0 after a step. -/
def curveResult (r : Result) : Option (Word × Word × Word × Word) :=
  match r with
  | .next t => some (statusWord t, bigWord t.cp 3, bigWord t.cgx 0, t.keybits)
  | .fault _ => none
  | .refused _ => none

/-- V-LD-2, V-LD-4. -/
theorem test_ldcurve :
    curveResult (exec (.ldcurve 1) State.reset) = some (0x002, 0xFFFFFFFE, 0x188DA80E, 0xC0) ∧
    curveResult (exec (.ldcurve 255) State.reset) = some (0x506, 0, 0, 0) := by decide +kernel

/-- 44_curve_registry.md R211: both generators lie on their curves. -/
theorem test_rom_generators :
    ∀ row ∈ [secp192k1, secp192r1],
      (row.gy.toNat ^ 2) % row.p.toNat = (row.gx.toNat ^ 3 + row.a.toNat * row.gx.toNat + row.b.toNat) % row.p.toNat := by
  decide +kernel

/-! ### The port and the step: 95_test_vectors.md V-ME, V-DE, programs 0, 3 and 4 -/

/-- V-ME-1: word 3 of `CP` is bits 95:64. -/
theorem test_hostWrite_word :
    (hostWrite (wordAt 0x02C) 0x12345678#32 { State.reset with cp := BitVec.allOnes 192 }).cp =
      0xFFFFFFFFFFFFFFFFFFFFFFFF12345678FFFFFFFFFFFFFFFF#192 := by decide +kernel

/-- V-ME-4: `RINF` is not writable. -/
theorem test_hostWrite_pflags : hostRead (wordAt 0x008) (hostWrite (wordAt 0x008) 7#32 State.reset) = 3#32 := by decide +kernel

/-- Program 4: an accepted SMUL reads as busy, and writes to `K` and `CMD` are dropped. -/
theorem test_busy :
    statusWord (hostWrite (wordAt 0x000) 0x00000012#32 State.reset) = 0x00000001#32 ∧
    hostWrite (wordAt 0x214) 5#32 (hostWrite (wordAt 0x000) 0x00000012#32 State.reset) =
      hostWrite (wordAt 0x000) 0x00000012#32 State.reset := by decide +kernel

/-- Program 3: the all-zero word is no command; the clear leaves `DONE`. -/
theorem test_illegal_and_clear :
    statusWord (hostWrite (wordAt 0x000) 0#32 State.reset) = 0x00000706#32 ∧
    statusWord (hostWrite (wordAt 0x004) 4#32 (hostWrite (wordAt 0x000) 0#32 State.reset)) = 0x00000002#32 := by
  decide +kernel

/-- A MODADD placed after reset runs as the first step, and finds no curve (70_reset_and_hazards.md R283). -/
theorem test_fetchWord : fieldResult (step (State.reset.withFetchWord 32 0x00000001)) = some (0x606, 0) := by decide +kernel

/-- Program 4: a reset during a command. -/
theorem test_reset_while_busy :
    fieldResult (step { fieldState 17 1 1 with busy := true, cur := 1, pending := [.reset] }) = some (0x000, 0) := by
  decide +kernel

/-! ### The host's procedures: 95_test_vectors.md V-CO, program 1 -/

/-- V-CO-4, V-CO-5, V-CO-6, V-CO-7. -/
theorem test_codec :
    encodePoint 17 (.affine 5 1) = .ok ['0', '4', '0', '5', '0', '1'] ∧
    decodePoint ['0', '4', '0', '5', '0', '1'] = .ok (.affine 5 1) ∧
    decodePoint ['0', '4', '0', '5'] = .ok (.affine 0 5) ∧
    decodePoint ['0', '4', '0', '5', '1'] = .error .invalidEncoding := by decide +kernel

/-- V-CO-8, V-CO-9, V-CO-10, V-CO-12. -/
theorem test_codec_refuses :
    decodePoint ['0', '4'] = .error .invalidEncoding ∧ decodePoint ['0', '4', 'z', 'z'] = .error .invalidEncoding ∧
    decodePoint ['0', '2', '0', '5'] = .error .invalidEncoding ∧
    decodePoint ['0', '4', 'A', 'B', 'a', 'b'] = .ok (.affine 0xAB 0xAB) := by decide +kernel

/-- 45_host_procedures.md R231: a malformed curve literal is the host's failure. -/
theorem test_curveLiteral :
    curveLiteral ['1', 'F'] = .ok 31 ∧ curveLiteral ['1', 'g'] = .error .curveConstructionError := by decide +kernel

/-- The string a procedure returned. -/
def secretOf (r : Except ProcFailure (List Char × State)) : Option (List Char) :=
  match r with
  | .ok (str, _) => some str
  | .error _ => none

/-- Program 1: 3 times Q_B = (0, 6) is (6, 3), encoded `040603`. -/
theorem test_deriveSharedSecret :
    secretOf (deriveSharedSecret 3 ['0', '4', '0', '0', '0', '6'] (e17 0 0 0 0 0)) = some ['0', '4', '0', '6', '0', '3'] := by
  decide +kernel

/-- The pair a key generation returned, or why it returned none. -/
def pairOf (r : Except ProcFailure (Nat × Point × State)) : Except ProcFailure (Nat × Point) :=
  match r with
  | .ok (d, q, _) => .ok (d, q)
  | .error e => .error e

/-- E17 with `KEYBITS` = 8, no point and no scalar written (program 1). -/
def e17Keys : State := { e17 0 0 0 0 0 with keybits := 8 }

/-- Program 1: 3 times G is (10, 6); and 45_host_procedures.md R222, R226 and U4: d = 0 and d = n = 19 reach the identity, which leaves no result. -/
theorem test_generateKeyPair :
    pairOf (generateKeyPair .bitlength [some [3#8]] e17Keys) = .ok (3, .affine 10 6) ∧
    pairOf (generateKeyPair .bitlength [some [0#8]] e17Keys) = .error .noDefinedResult ∧
    pairOf (generateKeyPair .bitlength [some [19#8]] e17Keys) = .error .noDefinedResult := by decide +kernel

/-- `rejection` repeats the draw of n = 19 and of 0, and takes 3 (45_host_procedures.md R226). -/
theorem test_generateKeyPair_rejection :
    pairOf (generateKeyPair .rejection [some [19#8], some [0#8], some [3#8]] e17Keys) = .ok (3, .affine 10 6) := by
  decide +kernel

/-! ### Witnesses: states and operands that meet the hypotheses of the statements -/

/-- A step that answers a next state with a decidable property, found by evaluation. -/
theorem exists_next {r : Result} {P : State → Prop} [DecidablePred P]
    (h : (match r with | .next t => decide (P t) | .fault _ => false | .refused _ => false) = true) :
    ∃ t, r = .next t ∧ P t := by
  cases r with
  | next t => exact ⟨t, rfl, of_decide_eq_true h⟩
  | fault f => cases h
  | refused f => cases h

/-- A block running MODADD on 16 and 16 under the modulus 17. -/
def running : State := { fieldState 17 16 16 with busy := true, cur := 0x00000001#32 }

/-- A block whose last command failed with NoModularInverse. -/
def failed : State := { fieldState 17 3 0 with err := true, errcode := 3, done := true }

theorem running_inv : Inv running :=
  ⟨⟨by decide, by decide, by decide⟩, fun _ => ⟨.modadd, by decide⟩, by unfold ResultCanonical; decide⟩

theorem failed_inv : Inv failed :=
  ⟨⟨by decide, by decide, by decide⟩, (fun h => by cases h), by unfold ResultCanonical; decide⟩

theorem witness_DecodeOfEncodeIsTheCommand :
    (Instr.ldcurve 0).wellFormed = true ∧ (Instr.ldcurve 255).wellFormed = true := by decide

theorem witness_EncodeOfDecodeIsTheWord : decode 0x0000FF20#32 = .ok (.ldcurve 255) := by decide

theorem witness_IllegalWordsAreExactlyTheRest :
    (∃ e, decode 0x00000101#32 = .error e) ∧ State.reset.busy = false ∧ State.reset.err = false :=
  ⟨⟨.immFieldSet, by decide⟩, rfl, rfl⟩

theorem witness_ResetClearsEverything :
    ∃ s : State, s.pending = .reset :: [] ∧ s.busy = true ∧ s.cp = 17 :=
  ⟨{ running with pending := [.reset] }, rfl, rfl, rfl⟩

theorem witness_EveryStepKeepsTheInvariant : Inv running ∧ ∃ t, step running = .next t ∧ t.fr = 15 :=
  ⟨running_inv, exists_next (by decide +kernel)⟩

theorem witness_StatusLegalInEveryReachableState :
    ∃ t : State, Host.Core.run Sys2Proof.core 1 { State.reset with pending := [.hostWrite (wordAt 0x000) 0#32] } = .next t ∧
      t.err = true :=
  exists_next (by decide +kernel)

theorem witness_LegalStatesNeverStop : Inv running ∧ Inv failed := ⟨running_inv, failed_inv⟩

theorem witness_BusyEnds : Inv running ∧ running.busy = true ∧ Inv { running with pending := [.hostRead (wordAt 0x004)] } :=
  ⟨running_inv, rfl, running_inv.status, running_inv.cur, running_inv.result⟩

theorem witness_HiddenStateIsUnobservable :
    SameVisible running { running with hidden := { Hidden.reset with idx := 192 }, drawn := 5 } ∧
      (∃ s', step running = .next s' ∧ s'.busy = false) ∧
      SameVisible failed { failed with cur := 0x00000006#32, hidden := { Hidden.reset with acc := .affine 1 2 } } :=
  ⟨⟨rfl, fun _ => rfl⟩, exists_next (by decide +kernel), ⟨rfl, fun h => by cases h⟩⟩

theorem witness_EngineTurnRunsTheDecodedCommand :
    running.busy = true ∧ decode running.cur = .ok .modadd ∧ running.pending = [] ∧
      ({ running with pending := [.engine] } : State).pending = .engine :: [] := by decide

theorem witness_FetchWordRunsTheCommand : (Instr.ldcurve 255).wellFormed = true := by decide

theorem witness_IssuedCommandIsRun :
    ∃ s : State, Instr.smul.wellFormed = true ∧ s.busy = false ∧ s.err = false ∧
      s.pending = .hostWrite (wordAt 0x000) (encode .smul) :: .engine :: [] :=
  ⟨{ State.reset with pending := [.hostWrite (wordAt 0x000) (encode .smul), .engine] }, rfl, rfl, rfl, rfl⟩

/-- The first and the last big register, a reserved word of each range of 20_memory.md R79, and a pending read. -/
theorem witness_HostReadReturnsTheRegisters :
    (BigReg.cp, 0x020) ∈ offsetTable ∧ (BigReg.k, 0x200) ∈ offsetTable ∧
      reservedOffset 0x014 ∧ reservedOffset 0x01C ∧ reservedOffset 0x038 ∧ reservedOffset 0x1FC ∧ reservedOffset 0x218 ∧
      reservedOffset 0x3FC ∧
      ({ running with pending := [.hostRead (wordAt 0x004)] } : State).pending = .hostRead (wordAt 0x004) :: [] :=
  ⟨by decide, by decide, .inl (by decide), .inl (by decide), .inr (.inr ⟨.cp, 0x020, by decide, by decide⟩),
    .inr (.inr ⟨.ry, 0x1E0, by decide, by decide⟩), .inr (.inl (by decide)), .inr (.inl (by decide)), rfl⟩

theorem witness_BigRegistersAreBigEndianWords : (BigReg.fr, 0x120) ∈ offsetTable := by decide

theorem witness_HostWriteStoresOneWord :
    (BigReg.k, 0x200) ∈ offsetTable ∧ BigReg.k ≠ .fr ∧ BigReg.k ≠ .rx ∧ BigReg.k ≠ .ry ∧ failed.busy = false ∧
      (wordAt 0x214).val = 133 := by decide

theorem witness_HostWriteStoresTagsAndSizes : failed.busy = false := rfl

theorem witness_ReservedOffsetsAreInert : reservedOffset (4 * (wordAt 0x3FC).val) := .inr (.inl (by decide))

theorem witness_DroppedWritesAreSilent :
    (running.busy = true ∧ 4 * (wordAt 0x000).val ≠ 0x004) ∧ (failed.err = true ∧ 4 * (wordAt 0x000).val = 0x000) ∧
      ((BigReg.ry, 0x1E0) ∈ offsetTable ∧ 4 * (wordAt 0x1F4).val = 0x1E0 + 4 * 5) ∧
      reservedOffset (4 * (wordAt 0x018).val) :=
  ⟨by decide, by decide, by decide, .inl (by decide)⟩

theorem witness_NothingChangesUnderARunningCommand :
    ∃ s : State, StatusLegal s ∧ s.busy = true ∧ s.pending = .hostWrite (wordAt 0x0E0) 5#32 :: [] ∧
      ∃ t, step s = .next t ∧ t.fa = 16 :=
  ⟨{ running with pending := [.hostWrite (wordAt 0x0E0) 5#32] }, running_inv.status, rfl, rfl, exists_next (by decide +kernel)⟩

theorem witness_IssueDropsRejectsOrAccepts :
    (failed.busy = false ∧ failed.err = true) ∧ (State.reset.busy = false ∧ State.reset.err = false) ∧
      decode 0x00000007#32 = .error .noSuchOpcode ∧ decode 0x00000012#32 = .ok .smul := by decide

theorem witness_WritingStatusClearsTheError :
    (4#32).getLsbD 2 = true ∧ (0xFFFFFFFB#32).getLsbD 2 = false ∧ failed.err = true ∧ State.reset.err = false := by decide

theorem witness_ErrorIsStickyAndBlocks :
    ∃ s : State, StatusLegal s ∧ s.err = true ∧ s.pending = .hostWrite (wordAt 0x000) 1#32 :: [] ∧
      ∃ t, step s = .next t ∧ t.busy = false :=
  ⟨{ failed with pending := [.hostWrite (wordAt 0x000) 1#32] }, failed_inv.status, rfl, rfl, exists_next (by decide +kernel)⟩

/-- One failure of each code a command can fail with. -/
theorem witness_FailureWritesOnlyTheStatus :
    (∃ t, exec .modinv (fieldState 15 0 6) = .next t ∧ t.err = true ∧ t.errcode = 3) ∧
      (∃ t, exec (.ldcurve 2) (fieldState 15 0 6) = .next t ∧ t.err = true ∧ t.errcode = 5) ∧
      (∃ t, exec .modadd (fieldState 17 17 0) = .next t ∧ t.err = true ∧ t.errcode = 6) ∧
      decode 0x00000021#32 = .error .noSuchOpcode :=
  ⟨exists_next (by decide +kernel), exists_next (by decide +kernel), exists_next (by decide +kernel), by decide⟩

theorem witness_NoCurveMeansOperandRange : State.reset.cp = 0 ∧ ∀ cid, Instr.smul ≠ .ldcurve cid :=
  ⟨rfl, fun _ h => by cases h⟩

theorem witness_ModaddAdds : (fieldState 17 16 1).fa < (fieldState 17 16 1).cp ∧ (fieldState 17 16 1).fb < (fieldState 17 16 1).cp ∧
    ¬ ((fieldState 17 0 17).fa < (fieldState 17 0 17).cp ∧ (fieldState 17 0 17).fb < (fieldState 17 0 17).cp) := by decide

theorem witness_ModsubSubtracts : (fieldState 17 0 16).fa < (fieldState 17 0 16).cp ∧ (fieldState 17 0 16).fb < (fieldState 17 0 16).cp ∧
    ¬ ((fieldState 0 0 0).fa < (fieldState 0 0 0).cp ∧ (fieldState 0 0 0).fb < (fieldState 0 0 0).cp) := by decide

theorem witness_ModmulMultiplies : (fieldState 17 16 15).fa < (fieldState 17 16 15).cp ∧
    (fieldState 17 16 15).fb < (fieldState 17 16 15).cp ∧
    ¬ ((fieldState 17 17 0).fa < (fieldState 17 17 0).cp ∧ (fieldState 17 17 0).fb < (fieldState 17 17 0).cp) := by decide

theorem witness_ModsqrSquares : (fieldState 17 13 99).fa < (fieldState 17 13 99).cp ∧
    ¬ (fieldState 17 17 0).fa < (fieldState 17 17 0).cp := by decide

theorem witness_ShiftAndAddIsModmul : (16 : Nat) < 17 ∧ shiftAndAdd 16 15 17 4 0 = 2 := by decide

theorem witness_FinvIsTheUniqueInverse :
    ((6 : Nat) < 15 ∧ Nat.gcd 6 15 ≠ 1) ∧ ((7 : Nat) < 15 ∧ Nat.gcd 7 15 = 1) ∧ ((0 : Nat) < 1 ∧ Nat.gcd 0 1 = 1) := by decide

theorem witness_ModinvInverts :
    ((fieldState 17 99 16).fb < (fieldState 17 99 16).cp ∧ Nat.gcd (fieldState 17 99 16).fb.toNat (fieldState 17 99 16).cp.toNat = 1) ∧
      ((fieldState 17 0 0).fb < (fieldState 17 0 0).cp ∧ Nat.gcd (fieldState 17 0 0).fb.toNat (fieldState 17 0 0).cp.toNat ≠ 1) ∧
      ¬ (fieldState 17 0 17).fb < (fieldState 17 0 17).cp := by decide +kernel

theorem witness_ModdivDivides :
    ((fieldState 17 16 5).fa < (fieldState 17 16 5).cp ∧ (fieldState 17 16 5).fb < (fieldState 17 16 5).cp ∧
        Nat.gcd (fieldState 17 16 5).fb.toNat (fieldState 17 16 5).cp.toNat = 1) ∧
      ((fieldState 17 0 0).fa < (fieldState 17 0 0).cp ∧ Nat.gcd (fieldState 17 0 0).fb.toNat (fieldState 17 0 0).cp.toNat ≠ 1) ∧
      ¬ ((fieldState 17 17 5).fa < (fieldState 17 17 5).cp ∧ (fieldState 17 17 5).fb < (fieldState 17 17 5).cp) := by
  decide +kernel

theorem witness_InverseScriptEndsInOne :
    StatusLegal (fieldState 2 0 0) ∧ (fieldState 2 0 0).busy = false ∧ (fieldState 2 0 0).err = false ∧
      2 ≤ (fieldState 2 0 0).cp.toNat ∧ (1 : Big) < (fieldState 2 0 0).cp ∧ Nat.gcd 1 (fieldState 2 0 0).cp.toNat = 1 :=
  ⟨⟨by decide, by decide, by decide⟩, by decide +kernel⟩

/-- Out of range: the coefficient, a coordinate of P, a coordinate of Q; and the largest values in range. -/
theorem witness_PointRangeCheck :
    (¬ ({ e17 5 1 6 3 0 with ca := 17 } : State).ca < (e17 5 1 6 3 0).cp) ∧
      ((e17 5 17 6 3 0).pinf = false ∧ ¬ (e17 5 17 6 3 0).py < (e17 5 17 6 3 0).cp) ∧
      ((e17 5 1 17 3 0).qinf = false ∧ ¬ (e17 5 1 17 3 0).qx < (e17 5 1 17 3 0).cp) ∧
      ((e17 16 16 16 16 0).err = false ∧ (e17 16 16 16 16 0).ca < (e17 16 16 16 16 0).cp ∧
        (e17 16 16 16 16 0).px < (e17 16 16 16 16 0).cp ∧ (e17 16 16 16 16 0).qy < (e17 16 16 16 16 0).cp) := by decide

theorem witness_PaddIdentityLaw :
    (e17 99 99 99 99 0).ca < (e17 99 99 99 99 0).cp ∧
      ({ e17 99 99 16 16 0 with pinf := true } : State).pinf = true ∧ (e17 99 99 16 16 0).qx < (e17 99 99 16 16 0).cp ∧
      (e17 99 99 16 16 0).qy < (e17 99 99 16 16 0).cp ∧ ({ e17 16 16 99 99 0 with qinf := true } : State).qinf = true ∧
      (e17 16 16 99 99 0).px < (e17 16 16 99 99 0).cp ∧ (e17 16 16 99 99 0).py < (e17 16 16 99 99 0).cp := by decide

/-- Equal points; opposite ordinates; unrelated ordinates, 0 and 16 summing to one below the modulus. -/
theorem witness_PaddEqualAbscissas :
    ((e17 5 1 5 1 0).ca < (e17 5 1 5 1 0).cp ∧ (e17 5 1 5 1 0).px < (e17 5 1 5 1 0).cp ∧
        (e17 5 1 5 1 0).py < (e17 5 1 5 1 0).cp ∧ (e17 5 1 5 1 0).qx = (e17 5 1 5 1 0).px ∧
        (e17 5 1 5 1 0).py = (e17 5 1 5 1 0).qy) ∧
      ((e17 5 1 5 16 0).qy < (e17 5 1 5 16 0).cp ∧ (e17 5 1 5 16 0).py ≠ (e17 5 1 5 16 0).qy ∧
        (e17 5 1 5 16 0).py.toNat + (e17 5 1 5 16 0).qy.toNat = (e17 5 1 5 16 0).cp.toNat) ∧
      ((e17 5 0 5 16 0).qy < (e17 5 0 5 16 0).cp ∧ (e17 5 0 5 16 0).py ≠ (e17 5 0 5 16 0).qy ∧
        (e17 5 0 5 16 0).py.toNat + (e17 5 0 5 16 0).qy.toNat ≠ (e17 5 0 5 16 0).cp.toNat) := by decide +kernel

/-- An abscissa difference of −1 with inverse 16, and one of 3 under the modulus 15 with none. -/
theorem witness_PaddChord :
    ((e17 5 1 6 3 0).px ≠ (e17 5 1 6 3 0).qx ∧ (e17 5 1 6 3 0).qx < (e17 5 1 6 3 0).cp ∧ (16 : Nat) < 17 ∧
        ((5 : Int) - 6) * 16 % 17 = 1 % 17 ∧ (2 : Int) = (1 - 3) * 16 % 17 ∧ (10, 6) = lineResult 2 5 1 (5 + 6) 17) ∧
      Int.gcd ((4 : Int) - 1) 15 ≠ 1 := by decide +kernel

theorem witness_PdblTangent :
    (e17 5 1 0 0 0).ca < (e17 5 1 0 0 0).cp ∧ (e17 5 1 0 0 0).px < (e17 5 1 0 0 0).cp ∧
      ((e17 5 1 0 0 0).py < (e17 5 1 0 0 0).cp ∧ (e17 5 1 0 0 0).py ≠ 0) ∧ (9 : Nat) < 17 ∧ 2 * 1 * 9 % 17 = 1 % 17 ∧
      (13 : Int) = ((3 * 5 * 5 + 2 : Nat) : Int) * 9 % 17 ∧ (6, 3) = lineResult 13 5 1 (2 * 5) 17 ∧
      (e17 4 0 0 0 0).py = 0 ∧ Nat.gcd (2 * 3) 15 ≠ 1 := by decide +kernel

theorem witness_SmulSimpleCases :
    (e17 5 1 0 0 1).ca < (e17 5 1 0 0 1).cp ∧ (e17 5 1 0 0 1).px < (e17 5 1 0 0 1).cp ∧
      (e17 5 1 0 0 1).py < (e17 5 1 0 0 1).cp ∧ (e17 5 1 0 0 1).k = 1 ∧
      Nat.gcd (2 * (e17 5 1 0 0 1).py.toNat) (e17 5 1 0 0 1).cp.toNat = 1 ∧ (e17 5 1 0 0 0).k = 0 ∧
      (e17 4 0 0 0 1).py = 0 := by decide +kernel

theorem witness_SmulTrailingDoublingFails :
    ({ e17 1 3 0 0 1 with cp := 15, ca := 0 } : State).ca < ({ e17 1 3 0 0 1 with cp := 15, ca := 0 } : State).cp ∧
      (1 : Big) < 15 ∧ (3 : Big) < 15 ∧ (3 : Big) ≠ 0 ∧ (1 : Big) ≠ 0 ∧ Nat.gcd (2 * 3) 15 ≠ 1 := by decide +kernel

theorem e17_prime (x1 y1 x2 y2 k : Big) : Fact (Nat.Prime (e17 x1 y1 x2 y2 k).cp.toNat) :=
  ⟨show Nat.Prime 17 by norm_num⟩

/-- An affine point whose coordinates satisfy the curve equation, and whose ordinate is not its own opposite, is a point of the group. -/
theorem point_of_equation (s : State) (x y : Nat) (hx : x < s.cp.toNat) (hy : y < s.cp.toNat)
    (he : y ^ 2 % s.cp.toNat = (x ^ 3 + s.ca.toNat * x + s.cb.toNat) % s.cp.toNat) (hd : (y + y) % s.cp.toNat ≠ 0) :
    ∃ X : (curveOf s).Point, Represents s (.affine x y) X := by
  have he' : (y : ZMod s.cp.toNat) ^ 2 = (x : ZMod s.cp.toNat) ^ 3 + s.ca.toNat * x + s.cb.toNat := by
    exact_mod_cast (ZMod.natCast_eq_natCast_iff _ _ _).mpr he
  have hd' : (y : ZMod s.cp.toNat) ≠ -y := by
    intro h
    have h0 : ((y + y : Nat) : ZMod s.cp.toNat) = 0 := by
      push_cast
      linear_combination h
    rw [ZMod.natCast_eq_zero_iff] at h0
    exact hd (Nat.mod_eq_zero_of_dvd h0)
  have hns : (curveOf s).Nonsingular (x : ZMod s.cp.toNat) (y : ZMod s.cp.toNat) := by
    rw [WeierstrassCurve.Affine.nonsingular_iff, WeierstrassCurve.Affine.equation_iff]
    refine ⟨?_, .inr ?_⟩
    · simp only [curveOf, zero_mul, add_zero]
      exact he'
    · simpa only [curveOf, zero_mul, sub_zero] using hd'
  exact ⟨.some _ _ hns, hx, hy, hns, rfl⟩

/-- P = (5, 1) and Q = (6, 3) of E17 are points of the group, over a prime modulus (the hypotheses of PaddIsTheGroupLaw, PdblIsTheGroupDoubling, SmulComputesTheMultiple and KeyAgreement). -/
theorem witness_groupLaw :
    Fact (Nat.Prime (e17 5 1 6 3 6).cp.toNat) ∧ (e17 5 1 6 3 6).cp.toNat ≠ 2 ∧ (e17 5 1 6 3 6).ca < (e17 5 1 6 3 6).cp ∧
      (∃ X, Represents (e17 5 1 6 3 6) (e17 5 1 6 3 6).pointP X) ∧
      (∃ Y, Represents (e17 5 1 6 3 6) (e17 5 1 6 3 6).pointQ Y) ∧ Represents (e17 5 1 6 3 6) .infinity 0 :=
  ⟨e17_prime _ _ _ _ _, by decide, by decide,
    point_of_equation _ 5 1 (by decide) (by decide) (by decide) (by decide),
    point_of_equation _ 6 3 (by decide) (by decide) (by decide) (by decide), rfl⟩

/-- Private scalars 3 and 7 on E17 (95_test_vectors.md program 1): public points (10, 6) and (0, 6), secret (6, 3). -/
theorem witness_SharedSecretsAgree :
    (Fact (Nat.Prime (e17 5 1 0 0 0).cp.toNat) ∧ (e17 5 1 0 0 0).cp.toNat ≠ 2 ∧ (e17 5 1 0 0 0).ca < (e17 5 1 0 0 0).cp ∧
        (∃ X, Represents (e17 5 1 0 0 0) (.affine 5 1) X) ∧ (3 : Nat) < 2 ^ 192 ∧ (7 : Nat) < 2 ^ 192) ∧
      (e17 5 1 0 0 0).busy = false ∧ (e17 5 1 0 0 0).err = false ∧
      smul (.affine 5 1) 3 (e17 5 1 0 0 0).ca.toNat (e17 5 1 0 0 0).cp.toNat = .ok (.affine 10 6) ∧
      smul (.affine 5 1) 7 (e17 5 1 0 0 0).ca.toNat (e17 5 1 0 0 0).cp.toNat = .ok (.affine 0 6) ∧
      smul (.affine 0 6) 3 (e17 5 1 0 0 0).ca.toNat (e17 5 1 0 0 0).cp.toNat = .ok (.affine 6 3) :=
  ⟨⟨e17_prime _ _ _ _ _, by decide, by decide,
      point_of_equation _ 5 1 (by decide) (by decide) (by decide) (by decide), by decide, by decide⟩, by decide +kernel⟩

theorem witness_LdcurveFrame :
    (∃ t, exec (.ldcurve 1) State.reset = .next t ∧ t.err = false) ∧ (∃ t, exec (.ldcurve 2) State.reset = .next t ∧ t.err = true) :=
  ⟨exists_next (by decide +kernel), exists_next (by decide +kernel)⟩

theorem witness_UnknownCurveFails : (2 : Nat) ≠ 0 ∧ (2 : Nat) ≠ 1 ∧ (255 : Nat) ≠ 0 ∧ (255 : Nat) ≠ 1 := by decide

theorem witness_FieldCommandFrame :
    IsFieldCommand .moddiv ∧ (∃ t, exec .moddiv (fieldState 17 3 5) = .next t ∧ t.fr = 4) ∧
      (∃ t, exec .moddiv (fieldState 17 3 0) = .next t ∧ t.err = true) :=
  ⟨by unfold IsFieldCommand; decide, exists_next (by decide +kernel), exists_next (by decide +kernel)⟩

theorem witness_PointCommandFrame :
    IsPointCommand .smul ∧ (∃ t, exec .smul (e17 5 1 0 0 6) = .next t ∧ t.rx = 16) ∧
      (∃ t, exec .smul (e17 17 1 0 0 6) = .next t ∧ t.err = true) :=
  ⟨by unfold IsPointCommand; decide, exists_next (by decide +kernel), exists_next (by decide +kernel)⟩

theorem witness_ResultsLieInTheField :
    (fieldState 17 0 1).err = false ∧ (∃ t, exec .modsub (fieldState 17 0 1) = .next t ∧ t.err = false) ∧
      (∃ t, exec .padd (e17 5 1 6 3 0) = .next t ∧ t.err = false ∧ t.rinf = false) :=
  ⟨rfl, exists_next (by decide +kernel), exists_next (by decide +kernel)⟩

/-- `FR` changed by a completion, and by a reset. -/
theorem witness_OnlyCompletionWritesResults :
    (∃ t, step running = .next t ∧ t.fr ≠ running.fr) ∧
      (∃ t, step { running with pending := [.reset] } = .next t ∧ t.fr ≠ running.fr) :=
  ⟨exists_next (by decide +kernel), exists_next (by decide +kernel)⟩

/-- `CP` changed by a host write while idle, by LDCURVE, and by a reset. -/
theorem witness_OnlyLdcurveAndHostWriteTheCurve :
    (∃ t, step { failed with pending := [.hostWrite (wordAt 0x034) 19#32] } = .next t ∧ t.cp ≠ failed.cp) ∧
      (∃ t, step { running with cur := 0x00000120#32 } = .next t ∧ t.cp ≠ running.cp) ∧
      (∃ t, step { running with pending := [.reset] } = .next t ∧ t.cp ≠ running.cp) :=
  ⟨exists_next (by decide +kernel), exists_next (by decide +kernel), exists_next (by decide +kernel)⟩

theorem witness_WrbigSetsTheRegister :
    BigReg.k ≠ .fr ∧ BigReg.k ≠ .rx ∧ BigReg.k ≠ .ry ∧ failed.busy = false := by decide

theorem witness_CodecRoundTrip : (257 : Nat) < 2 ^ 192 ∧ (256 : Nat) < 257 ∧ fieldBytes 257 = 2 := by decide +kernel

/-- `KEYBITS` = 8 and the generator (5, 1) of E17, an answer of one byte: the largest scalar `rejection` takes, 18 = n − 1, which is affine, and n = 19, which is the identity. -/
theorem witness_KeyPairHoldsTheMultipleOfG :
    (Fact (Nat.Prime e17Keys.cp.toNat) ∧ e17Keys.cp.toNat ≠ 2 ∧ e17Keys.ca < e17Keys.cp ∧
        (∃ X, Represents e17Keys (.affine e17Keys.cgx.toNat e17Keys.cgy.toNat) X)) ∧
      (e17Keys.busy = false ∧ e17Keys.err = false ∧ e17Keys.keybits.toNat % 8 = 0 ∧ e17Keys.keybits.toNat ≤ 192 ∧
        [18#8].length = e17Keys.keybits.toNat / 8 ∧
        18 = ∑ i ∈ Finset.range [18#8].length, ([18#8].getD i 0).toNat * 256 ^ ([18#8].length - 1 - i) ∧
        1 ≤ 18 ∧ 18 + 1 ≤ e17Keys.cn.toNat ∧
        smul (.affine 5 1) 18 e17Keys.ca.toNat e17Keys.cp.toNat = .ok (.affine 5 16) ∧
        19 = ∑ i ∈ Finset.range [19#8].length, ([19#8].getD i 0).toNat * 256 ^ ([19#8].length - 1 - i) ∧
        smul (.affine 5 1) 19 e17Keys.ca.toNat e17Keys.cp.toNat = .ok .infinity) :=
  ⟨⟨⟨show Nat.Prime 17 by norm_num⟩, by decide, by decide,
      point_of_equation e17Keys 5 1 (by decide) (by decide) (by decide) (by decide)⟩, by decide +kernel⟩

end Sys2Proof.Tests
end

section
/-! The statements of 10_state.md: the invariant of the block (R47, R35), the hidden registers (R44), what each family of commands leaves unchanged (R50), and who writes the result and curve registers (R32, R33, R40). -/

namespace Sys2Proof.Machine

open Sys2Proof.Stated

/-! ### One step: the head of `pending`, or the engine -/

/-- The state with the next event, if any, taken off the list (log 2). -/
def State.pop (s : State) : State := { s with pending := s.pending.tail }

/-- The engine has its turn in the next step: it is listed first, or nothing is listed (70_reset_and_hazards.md R294, log 3). -/
def EngineNext (s : State) : Prop := s.pending = [] ∨ ∃ rest, s.pending = .engine :: rest

/-- A step lets the first event listed take effect, the engine's turn when none is listed. -/
theorem step_eq_takeEvent (s : State) : step s = takeEvent (s.pending.headD .engine) s.pop := by
  obtain ⟨hp, h⟩ | ⟨rest, hp, h⟩ | ⟨w, rest, hp, h⟩ | ⟨w, v, rest, hp, h⟩ | ⟨rest, hp, h⟩ := step_cases s
  case inl =>
    have hpop : s.pop = s := by unfold State.pop; rw [hp, List.tail_nil, ← hp]
    rw [h, hp, hpop]; rfl
  all_goals
    have hpop : s.pop = { s with pending := rest } := by unfold State.pop; rw [hp, List.tail_cons]
    rw [h, hp, hpop]; rfl

theorem exec_next_cases {i : Instr} {s t : State} (h : exec i s = .next t) :
    (∃ u, CommandWrites i s u ∧ t = u.succeed) ∨ (∃ e, CommandFailure i e ∧ t = s.failWith e) := by
  obtain ⟨u, hw, he⟩ | ⟨e, hf, he⟩ := exec_cases i s
  · exact .inl ⟨u, hw, by injection h.symm.trans he⟩
  · exact .inr ⟨e, hf, by injection h.symm.trans he⟩

theorem engineTurn_next_cases {s t : State} (hnext : EngineNext s) (h : engineTurn s.pop = .next t) :
    (s.busy = false ∧ EngineNext s ∧ t = s.pop) ∨
    (∃ i, s.busy = true ∧ EngineNext s ∧ decode s.cur = .ok i ∧ exec i s.pop = .next t) := by
  obtain ⟨hb, he⟩ | ⟨i, hb, hd, he⟩ | ⟨e, hb, hd, he⟩ := engineTurn_cases s.pop
  · exact .inl ⟨hb, hnext, by injection h.symm.trans he⟩
  · exact .inr ⟨i, hb, hnext, hd, he.symm.trans h⟩
  · rw [he] at h; cases h

/-- WHERE A STEP THAT ANSWERS A NEXT STATE LEADS: an idle turn, the completion of the running command, a host transaction, or a reset. -/
theorem step_next_cases {s t : State} (h : step s = .next t) :
    (s.busy = false ∧ EngineNext s ∧ t = s.pop) ∨
    (∃ i, s.busy = true ∧ EngineNext s ∧ decode s.cur = .ok i ∧ exec i s.pop = .next t) ∨
    (∃ w rest, s.pending = .hostRead w :: rest ∧ t = s.pop.answerRead w) ∨
    (∃ w v rest, s.pending = .hostWrite w v :: rest ∧ t = hostWrite w v s.pop) ∨
    (∃ rest, s.pending = .reset :: rest ∧ t = s.pop.resetEvent) := by
  rw [step_eq_takeEvent] at h
  cases hp : s.pending with
  | nil =>
    rw [hp] at h
    exact (engineTurn_next_cases (.inl hp) h).imp_right .inl
  | cons e rest =>
    rw [hp] at h
    cases e with
    | engine => exact (engineTurn_next_cases (.inr ⟨rest, hp⟩) h).imp_right .inl
    | hostRead w => exact .inr (.inr (.inl ⟨w, rest, rfl, by injection h.symm⟩))
    | hostWrite w v => exact .inr (.inr (.inr (.inl ⟨w, v, rest, rfl, by injection h.symm⟩)))
    | reset => exact .inr (.inr (.inr (.inr ⟨rest, rfl, by injection h.symm⟩)))

/-! ### What a command writes, by family -/

theorem CommandWrites.of_isFieldCommand {i : Instr} {s u : State} (hi : IsFieldCommand i) (h : CommandWrites i s u) :
    ∃ v, u = s.writeFR v := by
  rcases hi with rfl | rfl | rfl | rfl | rfl | rfl <;> exact h.imp fun _ hv => hv.2

theorem CommandWrites.of_isPointCommand {i : Instr} {s u : State} (hi : IsPointCommand i) (h : CommandWrites i s u) :
    ∃ v, u = s.writeR v := by
  rcases hi with rfl | rfl | rfl <;> exact h.imp fun _ hv => hv.2

/-- The three families of 30_encoding.md R103. -/
theorem command_family (i : Instr) : IsFieldCommand i ∨ IsPointCommand i ∨ ∃ cid, i = .ldcurve cid := by
  cases i <;> simp [IsFieldCommand, IsPointCommand]

/-- The status bits pass through a command's writes. -/
theorem CommandWrites.status {i : Instr} {s u : State} (h : CommandWrites i s u) :
    u.err = s.err ∧ u.errcode = s.errcode := by
  obtain hi | hi | ⟨cid, rfl⟩ := command_family i
  · obtain ⟨v, rfl⟩ := h.of_isFieldCommand hi; exact ⟨rfl, rfl⟩
  · obtain ⟨v, rfl⟩ := h.of_isPointCommand hi; simp
  · obtain ⟨row, _, rfl⟩ := h; exact ⟨rfl, rfl⟩

/-- A command fails with a kind whose code is 3, 5 or 6 (10_state.md R47). -/
theorem CommandFailure.code {i : Instr} {e : ErrKind} (h : CommandFailure i e) :
    e.code = 3 ∨ e.code = 5 ∨ e.code = 6 := by
  have hkind : e = .noModularInverse ∨ e = .curveConstructionError ∨ e = .operandRange := by
    cases i <;> simp only [CommandFailure] at h <;> tauto
  rcases hkind with rfl | rfl | rfl <;> decide

/-! ### The result registers: `FR` and R -/

/-- `FR` and R are in t what they are in s. -/
structure SameResults (s t : State) : Prop where
  fr : t.fr = s.fr
  rinf : t.rinf = s.rinf
  rx : t.rx = s.rx
  ry : t.ry = s.ry

/-- `FR`, `RX` and `RY` are no writable registers (20_memory.md R72). -/
theorem setBig_sameResults (s : State) {r : BigReg} (v : Big) (h : r.hostWritable = true) :
    SameResults s (s.setBig r v) where
  fr := big_setBig_other s v (r' := .fr) (by rintro rfl; cases h)
  rinf := State.setBig_rinf s r v
  rx := big_setBig_other s v (r' := .rx) (by rintro rfl; cases h)
  ry := big_setBig_other s v (r' := .ry) (by rintro rfl; cases h)

theorem issue_sameResults (c : Word) (s : State) : SameResults s (issue c s) := by
  obtain ⟨_, h⟩ | ⟨_, _, h⟩ | ⟨_, _, h⟩ := issue_cases c s <;> rw [h] <;> exact ⟨rfl, rfl, rfl, rfl⟩

theorem hostWrite_sameResults (w : WordIndex) (v : Word) (s : State) : SameResults s (hostWrite w v s) := by
  obtain ⟨_, h⟩ | h | ⟨_, _, h⟩ | ⟨_, _, h⟩ | ⟨_, _, h⟩ | ⟨_, _, h⟩ | ⟨r, j, _, hw, _, _, h⟩ := hostWrite_cases w v s <;>
    rw [h]
  case inl => exact ⟨by simp, by simp, by simp, by simp⟩
  case inr.inr.inl => exact issue_sameResults v s
  case inr.inr.inr.inr.inr.inr => exact setBig_sameResults s _ hw
  all_goals exact ⟨rfl, rfl, rfl, rfl⟩

theorem exec_ldcurve_sameResults {cid : Nat} {s t : State} (h : exec (.ldcurve cid) s = .next t) : SameResults s t := by
  obtain ⟨u, ⟨row, _, rfl⟩, rfl⟩ | ⟨e, _, rfl⟩ := exec_next_cases h <;> exact ⟨rfl, rfl, rfl, rfl⟩

/-! ### The curve registers -/

/-- The eight curve registers of 10_state.md R38 are in t what they are in s. -/
structure SameCurve (s t : State) : Prop where
  cp : t.cp = s.cp
  ca : t.ca = s.ca
  cb : t.cb = s.cb
  cgx : t.cgx = s.cgx
  cgy : t.cgy = s.cgy
  cn : t.cn = s.cn
  keybits : t.keybits = s.keybits
  cofactor : t.cofactor = s.cofactor

/-- While a command runs a host write reaches the error bits only (20_memory.md R78). -/
theorem hostWrite_sameCurve_of_busy (w : WordIndex) (v : Word) {s : State} (hb : s.busy = true) :
    SameCurve s (hostWrite w v s) := by
  obtain ⟨_, h⟩ | h | ⟨hi, _⟩ | ⟨hi, _⟩ | ⟨hi, _⟩ | ⟨hi, _⟩ | ⟨_, _, hi, _⟩ := hostWrite_cases w v s
  · rw [h]; constructor <;> simp
  · rw [h]; constructor <;> rfl
  all_goals simp [hb] at hi

theorem exec_sameCurve {i : Instr} {s t : State} (hi : IsFieldCommand i ∨ IsPointCommand i) (h : exec i s = .next t) :
    SameCurve s t := by
  obtain ⟨u, hw, rfl⟩ | ⟨e, _, rfl⟩ := exec_next_cases h
  · obtain hi | hi := hi
    · obtain ⟨v, rfl⟩ := hw.of_isFieldCommand hi; constructor <;> rfl
    · obtain ⟨v, rfl⟩ := hw.of_isPointCommand hi; constructor <;> simp
  · constructor <;> rfl

/-! ### The window's words under a command's writes -/

/-- A read depends only on the register its own word belongs to (20_memory.md R77). -/
theorem hostRead_congr_at {s t : State} (w : WordIndex) (hs : 4 * w.val = 0x004 → statusWord t = statusWord s)
    (hp : 4 * w.val = 0x008 → pflagsWord t = pflagsWord s) (hk : 4 * w.val = 0x00C → t.keybits = s.keybits)
    (hc : 4 * w.val = 0x010 → t.cofactor = s.cofactor)
    (hb : ∀ r, baseOf r ≤ 4 * w.val → 4 * w.val ≤ baseOf r + 0x14 → t.big r = s.big r) :
    hostRead w t = hostRead w s := by
  unfold hostRead
  simp only
  split <;> [rfl; skip]
  split <;> [exact hs ‹_›; skip]
  split <;> [exact hp ‹_›; skip]
  split <;> [exact hk ‹_›; skip]
  split <;> [exact hc ‹_›; skip]
  split
  · next r j hl =>
    obtain ⟨hj, hw⟩ := locate_bigRegs_inv hl
    rw [hb r (by omega) (by omega)]
  · rfl

@[simp] theorem big_succeed (s : State) (r : BigReg) : s.succeed.big r = s.big r := by cases r <;> rfl

@[simp] theorem big_failWith (s : State) (e : ErrKind) (r : BigReg) : (s.failWith e).big r = s.big r := by cases r <;> rfl

theorem hostRead_succeed (s : State) {w : WordIndex} (h : 4 * w.val ≠ 0x004) : hostRead w s.succeed = hostRead w s :=
  hostRead_congr_at w (absurd · h) (fun _ => rfl) (fun _ => rfl) (fun _ => rfl) fun r _ _ => big_succeed s r

theorem hostRead_failWith (s : State) (e : ErrKind) {w : WordIndex} (h : 4 * w.val ≠ 0x004) :
    hostRead w (s.failWith e) = hostRead w s :=
  hostRead_congr_at w (absurd · h) (fun _ => rfl) (fun _ => rfl) (fun _ => rfl) fun r _ _ => big_failWith s e r

theorem hostRead_writeFR (s : State) (v : Nat) {w : WordIndex} (h : ¬ (0x120 ≤ 4 * w.val ∧ 4 * w.val ≤ 0x134)) :
    hostRead w (s.writeFR v) = hostRead w s := by
  refine hostRead_congr_at w (fun _ => rfl) (fun _ => rfl) (fun _ => rfl) (fun _ => rfl) fun r h1 h2 => ?_
  cases r
  case fr => exact absurd ⟨h1, h2⟩ h
  all_goals rfl

theorem hostRead_writeR (s : State) (v : Point) {w : WordIndex} (hp : 4 * w.val ≠ 0x008)
    (hx : ¬ (0x1C0 ≤ 4 * w.val ∧ 4 * w.val ≤ 0x1D4)) (hy : ¬ (0x1E0 ≤ 4 * w.val ∧ 4 * w.val ≤ 0x1F4)) :
    hostRead w (s.writeR v) = hostRead w s := by
  refine hostRead_congr_at w (fun _ => by simp [statusWord]) (absurd · hp) (fun _ => by simp) (fun _ => by simp)
    fun r h1 h2 => ?_
  cases r
  case rx => exact absurd ⟨h1, h2⟩ hx
  case ry => exact absurd ⟨h1, h2⟩ hy
  all_goals cases v <;> rfl

theorem hostRead_loadRow (s : State) (row : CurveRow) {w : WordIndex} (hk : 4 * w.val ≠ 0x00C) (hc : 4 * w.val ≠ 0x010)
    (hb : ∀ b ∈ [0x020, 0x040, 0x060, 0x080, 0x0A0, 0x0C0], ¬ (b ≤ 4 * w.val ∧ 4 * w.val ≤ b + 0x14)) :
    hostRead w (s.loadRow row) = hostRead w s := by
  refine hostRead_congr_at w (fun _ => rfl) (fun _ => rfl) (absurd · hk) (absurd · hc) fun r h1 h2 => ?_
  cases r
  case cp | ca | cb | cgx | cgy | cn => exact absurd ⟨h1, h2⟩ (hb _ (by decide))
  all_goals rfl

/-! ### The invariant -/

theorem reset_inv : Inv State.reset :=
  ⟨⟨by decide, by decide, by decide⟩, (fun h => by cases h), (fun h => by cases h)⟩

theorem ResultCanonical.of_sameResults {s t : State} (hs : ResultCanonical s) (h : SameResults s t) :
    ResultCanonical t := by
  unfold ResultCanonical
  rw [h.rinf, h.rx, h.ry]
  exact hs

/-- `WriteR` writes the canonical form (10_state.md R35). -/
theorem writeR_resultCanonical (s : State) (v : Point) : ResultCanonical (s.writeR v) := by
  cases v with
  | infinity => exact fun _ => ⟨rfl, rfl⟩
  | affine x y => intro h; cases h

theorem CommandWrites.resultCanonical {i : Instr} {s u : State} (hs : ResultCanonical s) (h : CommandWrites i s u) :
    ResultCanonical u := by
  obtain hi | hi | ⟨cid, rfl⟩ := command_family i
  · obtain ⟨v, rfl⟩ := h.of_isFieldCommand hi; exact hs
  · obtain ⟨v, rfl⟩ := h.of_isPointCommand hi; exact writeR_resultCanonical s v
  · obtain ⟨row, _, rfl⟩ := h; exact hs

theorem recordError_statusLegal (s : State) {e : ErrKind} (h : e.code = 3 ∨ e.code = 5 ∨ e.code = 6 ∨ e.code = 7) :
    StatusLegal (s.recordError e) :=
  ⟨nofun, fun _ => ⟨rfl, rfl, h⟩, nofun⟩

theorem clearError_inv {s : State} (hs : Inv s) (v : Word) : Inv (s.clearError v) := by
  unfold State.clearError
  split
  · next h =>
    obtain ⟨hbusy, _, _⟩ := hs.status.2.1 h.2
    exact ⟨⟨fun hb => (nomatch hbusy.symm.trans hb), nofun, fun _ => rfl⟩, hs.cur, hs.result⟩
  · exact hs

theorem issue_inv {s : State} (hs : Inv s) (c : Word) : Inv (issue c s) := by
  obtain ⟨_, h⟩ | ⟨_, _, h⟩ | ⟨herr, hd, h⟩ := issue_cases c s <;> rw [h]
  · exact hs
  · exact ⟨recordError_statusLegal s (by decide), nofun, hs.result⟩
  · obtain ⟨_, _, hcode⟩ := hs.status
    exact ⟨⟨fun _ => ⟨herr, rfl⟩, fun he => (nomatch herr.symm.trans he), hcode⟩, fun _ => hd, hs.result⟩

theorem setBig_inv {s : State} (hs : Inv s) {r : BigReg} (v : Big) (hw : r.hostWritable = true) :
    Inv (s.setBig r v) where
  status := by simpa [StatusLegal] using hs.status
  cur := by simpa [CurLegal] using hs.cur
  result := hs.result.of_sameResults (setBig_sameResults s v hw)

theorem hostWrite_inv {s : State} (hs : Inv s) (w : WordIndex) (v : Word) : Inv (hostWrite w v s) := by
  obtain ⟨_, h⟩ | h | ⟨_, _, h⟩ | ⟨_, _, h⟩ | ⟨_, _, h⟩ | ⟨_, _, h⟩ | ⟨r, j, _, hw, _, _, h⟩ := hostWrite_cases w v s <;>
    rw [h]
  case inl => exact clearError_inv hs v
  case inr.inr.inl => exact issue_inv hs v
  case inr.inr.inr.inr.inr.inr => exact setBig_inv hs _ hw
  all_goals exact ⟨hs.status, hs.cur, hs.result⟩

/-- A completion keeps the invariant: while a command ran `ERR` was 0, so a success leaves it 0, and a failure is error entry with a code of 10_state.md R47. -/
theorem exec_inv {i : Instr} {s t : State} (hs : Inv s) (hb : s.busy = true) (h : exec i s = .next t) : Inv t := by
  obtain ⟨hrun, _, hcode⟩ := hs.status
  obtain ⟨herr, _⟩ := hrun hb
  obtain ⟨u, hw, rfl⟩ | ⟨e, hf, rfl⟩ := exec_next_cases h
  · obtain ⟨he, hc⟩ := hw.status
    have hu : u.succeed.err = false := he.trans herr
    have huc : u.succeed.errcode = 0 := hc.trans (hcode herr)
    have hres : ResultCanonical u := hw.resultCanonical hs.result
    exact ⟨⟨nofun, fun h1 => (nomatch hu.symm.trans h1), fun _ => huc⟩, nofun, hres⟩
  · have hkind : e.code = 3 ∨ e.code = 5 ∨ e.code = 6 ∨ e.code = 7 := by have := hf.code; tauto
    exact ⟨recordError_statusLegal s hkind, nofun, hs.result⟩

theorem step_inv {s t : State} (hs : Inv s) (h : step s = .next t) : Inv t := by
  have hpop : Inv s.pop := ⟨hs.status, hs.cur, hs.result⟩
  obtain ⟨_, _, rfl⟩ | ⟨i, hb, _, _, he⟩ | ⟨w, _, _, rfl⟩ | ⟨w, v, _, _, rfl⟩ | ⟨_, _, rfl⟩ := step_next_cases h
  · exact hpop
  · exact exec_inv hpop hb he
  · exact ⟨hpop.status, hpop.cur, hpop.result⟩
  · exact hostWrite_inv hpop w v
  · exact ⟨reset_inv.status, nofun, reset_inv.result⟩

/-- A run of n + 1 steps is a step and a run of n. -/
theorem run_succ_next {M : Host.Core} {n : Nat} {s t : M.State} (h : M.run (n + 1) s = .next t) :
    ∃ u, M.step s = .next u ∧ M.run n u = .next t := by
  rw [Host.Core.run] at h
  cases hu : M.step s with
  | next u => rw [hu] at h; exact ⟨u, rfl, h⟩
  | fault r => rw [hu] at h; cases h
  | refused r => rw [hu] at h; cases h

/-- A predicate every step keeps holds after every run. -/
theorem run_keeps {M : Host.Core} {P : M.State → Prop} (hstep : ∀ s t, P s → M.step s = .next t → P t) {n : Nat} :
    ∀ {s t : M.State}, P s → M.run n s = .next t → P t := by
  induction n with
  | zero => intro s t hs h; injection h with h; exact h ▸ hs
  | succ n ih =>
    intro s t hs h
    obtain ⟨u, hu, hrun⟩ := run_succ_next h
    exact ih (hstep s u hs hu) hrun

/-! ### The hidden registers -/

/-- The state with other values in the hidden registers and another count of free values (10_state.md R44, log 6). -/
def State.withHidden (s : State) (c : Word) (x : Hidden) (d : Nat) : State := { s with cur := c, hidden := x, drawn := d }

theorem SameVisible.exists_withHidden {s t : State} (h : SameVisible s t) :
    ∃ c x d, t = s.withHidden c x d ∧ (s.busy = true → s.cur = c) :=
  ⟨t.cur, t.hidden, t.drawn, h.shown.symm, h.cur⟩

@[simp] theorem withHidden_busy (s : State) (c : Word) (x : Hidden) (d : Nat) : (s.withHidden c x d).busy = s.busy := rfl

@[simp] theorem withHidden_err (s : State) (c : Word) (x : Hidden) (d : Nat) : (s.withHidden c x d).err = s.err := rfl

@[simp] theorem big_withHidden (s : State) (c : Word) (x : Hidden) (d : Nat) (r : BigReg) :
    (s.withHidden c x d).big r = s.big r := by cases r <;> rfl

theorem setBig_withHidden (s : State) (c : Word) (x : Hidden) (d : Nat) (r : BigReg) (v : Big) :
    (s.withHidden c x d).setBig r v = (s.setBig r v).withHidden c x d := by cases r <;> rfl

theorem hostRead_withHidden (s : State) (c : Word) (x : Hidden) (d : Nat) (w : WordIndex) :
    hostRead w (s.withHidden c x d) = hostRead w s :=
  hostRead_congr w (big_withHidden s c x d) rfl rfl rfl rfl

/-- An operation that commutes with a change of the hidden registers and keeps `BUSY` and `CUR` keeps the relation. -/
theorem SameVisible.map {s t : State} (h : SameVisible s t) (f : State → State)
    (hf : ∀ c x d, f (s.withHidden c x d) = (f s).withHidden c x d) (hb : (f s).busy = s.busy) (hc : (f s).cur = s.cur) :
    SameVisible (f s) (f t) := by
  obtain ⟨c, x, d, rfl, hcur⟩ := h.exists_withHidden
  rw [hf]
  exact ⟨rfl, fun h1 => hc.trans (hcur (hb.symm.trans h1))⟩

theorem SameVisible.pop {s t : State} (h : SameVisible s t) : SameVisible s.pop t.pop :=
  h.map State.pop (fun _ _ _ => rfl) rfl rfl

theorem SameVisible.answerRead {s t : State} (h : SameVisible s t) (w : WordIndex) :
    SameVisible (s.answerRead w) (t.answerRead w) := by
  refine h.map (·.answerRead w) (fun c x d => ?_) rfl rfl
  unfold State.answerRead
  rw [hostRead_withHidden]
  rfl

theorem SameVisible.clearError {s t : State} (h : SameVisible s t) (v : Word) :
    SameVisible (s.clearError v) (t.clearError v) := by
  refine h.map (·.clearError v) (fun c x d => ?_) (by simp) (by simp)
  unfold State.clearError
  rw [withHidden_err]
  split <;> rfl

theorem SameVisible.issue {s t : State} (h : SameVisible s t) (c : Word) : SameVisible (issue c s) (issue c t) := by
  obtain ⟨c', x, d, rfl, _⟩ := h.exists_withHidden
  unfold Machine.issue
  rw [withHidden_err]
  split
  · exact h
  · split
    · exact ⟨rfl, nofun⟩
    · exact ⟨rfl, fun _ => rfl⟩

theorem SameVisible.setBigWord {s t : State} (h : SameVisible s t) (r : BigReg) (j : Nat) (v : Word) :
    SameVisible (s.setBig r (setBigWord (s.big r) j v)) (t.setBig r (setBigWord (t.big r) j v)) :=
  h.map (fun s => s.setBig r (Machine.setBigWord (s.big r) j v))
    (fun c x d => by rw [big_withHidden, setBig_withHidden]) (by simp) (by simp)

theorem SameVisible.hostWrite {s t : State} (h : SameVisible s t) (w : WordIndex) (v : Word) :
    SameVisible (hostWrite w v s) (hostWrite w v t) := by
  obtain ⟨c, x, d, rfl, _⟩ := h.exists_withHidden
  unfold Machine.hostWrite
  dsimp only
  rw [withHidden_busy]
  split <;> [exact h.clearError v; skip]
  split <;> [exact h; skip]
  split <;> [exact h.issue v; skip]
  split <;> [exact h.map (writePflags v) (fun _ _ _ => rfl) rfl rfl; skip]
  split <;> [exact h.map (fun s => { s with keybits := v }) (fun _ _ _ => rfl) rfl rfl; skip]
  split <;> [exact h.map (fun s => { s with cofactor := v }) (fun _ _ _ => rfl) rfl rfl; skip]
  split
  · next r j _ => exact h.setBigWord r j v
  · exact h

theorem SameVisible.resetEvent {s t : State} (h : SameVisible s t) : SameVisible s.resetEvent t.resetEvent := by
  obtain ⟨c, x, d, rfl, _⟩ := h.exists_withHidden
  exact ⟨rfl, nofun⟩

theorem checked_map (f : State → State) (ok : Bool) (r : Except ErrKind State) :
    checked ok (r.map f) = (checked ok r).map f := by cases ok <;> rfl

theorem tryWriteFR_withHidden (s : State) (c : Word) (x : Hidden) (d : Nat) (r : Except ErrKind Nat) :
    (s.withHidden c x d).tryWriteFR r = (s.tryWriteFR r).map (·.withHidden c x d) := by cases r <;> rfl

theorem writeR_withHidden (s : State) (c : Word) (x : Hidden) (d : Nat) (v : Point) :
    (s.withHidden c x d).writeR v = (s.writeR v).withHidden c x d := by cases v <;> rfl

theorem tryWriteR_withHidden (s : State) (c : Word) (x : Hidden) (d : Nat) (r : Except ErrKind Point) :
    (s.withHidden c x d).tryWriteR r = (s.tryWriteR r).map (·.withHidden c x d) := by
  cases r with
  | ok v => exact congrArg Except.ok (writeR_withHidden s c x d v)
  | error e => rfl

/-- No command reads a hidden register: with others in place it completes with the same result. -/
theorem exec_withHidden (i : Instr) (s : State) (c : Word) (x : Hidden) (d : Nat) :
    ∃ r, exec i s = complete s r ∧
      exec i (s.withHidden c x d) = complete (s.withHidden c x d) (r.map (·.withHidden c x d)) := by
  have field (ok : Bool) (v : Nat) : checked ok (.ok ((s.withHidden c x d).writeFR v)) =
      (checked ok (.ok (s.writeFR v))).map (·.withHidden c x d) := checked_map (·.withHidden c x d) ok (.ok (s.writeFR v))
  have division (ok : Bool) (r : Except ErrKind Nat) : checked ok ((s.withHidden c x d).tryWriteFR r) =
      (checked ok (s.tryWriteFR r)).map (·.withHidden c x d) := by rw [tryWriteFR_withHidden, checked_map]
  have point (ok : Bool) (r : Except ErrKind Point) : checked ok ((s.withHidden c x d).tryWriteR r) =
      (checked ok (s.tryWriteR r)).map (·.withHidden c x d) := by rw [tryWriteR_withHidden, checked_map]
  cases i with
  | modadd | modsub | modmul | modsqr => exact ⟨_, rfl, congrArg (complete _) (field _ _)⟩
  | modinv | moddiv => exact ⟨_, rfl, congrArg (complete _) (division _ _)⟩
  | padd | pdbl | smul => exact ⟨_, rfl, congrArg (complete _) (point _ _)⟩
  | ldcurve cid =>
    refine ⟨_, rfl, congrArg (complete _) ?_⟩
    cases romRow cid <;> rfl

theorem SameVisible.exec {s t s' : State} {i : Instr} (h : SameVisible s t) (he : exec i s = .next s') :
    ∃ t', exec i t = .next t' ∧ SameVisible s' t' := by
  obtain ⟨c, x, d, rfl, _⟩ := h.exists_withHidden
  obtain ⟨r, hs, ht⟩ := exec_withHidden i s c x d
  rw [hs] at he
  rw [ht]
  cases r with
  | ok u => injection he with he; subst he; exact ⟨_, rfl, rfl, nofun⟩
  | error e => injection he with he; subst he; exact ⟨_, rfl, rfl, nofun⟩

theorem SameVisible.engineTurn {s t s' : State} (h : SameVisible s t) (he : engineTurn s = .next s') :
    ∃ t', engineTurn t = .next t' ∧ SameVisible s' t' := by
  have hbusy : t.busy = s.busy := by rw [← h.shown]
  obtain ⟨hb, hs⟩ | ⟨i, hb, hd, hs⟩ | ⟨e, _, _, hs⟩ := engineTurn_cases s <;> rw [hs] at he
  · injection he with he
    subst he
    exact ⟨t, by unfold Machine.engineTurn; simp [hbusy, hb], h⟩
  · have ht : Machine.engineTurn t = Machine.exec i t := by
      unfold Machine.engineTurn; simp [hbusy, hb, ← h.cur hb, hd]
    rw [ht]
    exact h.exec he
  · cases he

theorem SameVisible.takeEvent {s t s' : State} {e : Event} (h : SameVisible s t) (he : takeEvent e s = .next s') :
    ∃ t', takeEvent e t = .next t' ∧ SameVisible s' t' := by
  cases e with
  | engine => exact h.engineTurn he
  | hostRead w => injection he with he; exact ⟨_, rfl, he ▸ h.answerRead w⟩
  | hostWrite w v => injection he with he; exact ⟨_, rfl, he ▸ h.hostWrite w v⟩
  | reset => injection he with he; exact ⟨_, rfl, he ▸ h.resetEvent⟩

theorem SameVisible.step {s t s' : State} (h : SameVisible s t) (he : step s = .next s') :
    ∃ t', step t = .next t' ∧ SameVisible s' t' := by
  have hpending : t.pending = s.pending := by rw [← h.shown]
  rw [step_eq_takeEvent] at he
  rw [step_eq_takeEvent, hpending]
  exact h.pop.takeEvent he

/-! ### The obligations -/

/-- Settles O8: each of the five things a step can do keeps the invariant. -/
theorem everyStepKeepsTheInvariant : Obligations.EveryStepKeepsTheInvariant := fun _ _ => step_inv

/-- Settles O12: the next event is the same on both sides, and each event takes related states to related states. -/
theorem hiddenStateIsUnobservable : Obligations.HiddenStateIsUnobservable := fun _ _ _ => SameVisible.step

/-- Settles O9: the invariant holds at reset whatever is listed, and along every run. -/
theorem statusLegalInEveryReachableState : Obligations.StatusLegalInEveryReachableState := by
  intro events n t h
  have hstart : Inv { State.reset with pending := events } := ⟨reset_inv.status, reset_inv.cur, reset_inv.result⟩
  exact (run_keeps (M := Sys2Proof.core) (P := Inv) (fun _ _ => step_inv) hstart h).status

/-- Settles O51: a success is a write of `FR`, a failure error entry alone. -/
theorem fieldCommandFrame : Obligations.FieldCommandFrame := by
  intro i s t hi h
  obtain ⟨u, hw, rfl⟩ | ⟨e, _, rfl⟩ := exec_next_cases h
  · obtain ⟨v, rfl⟩ := hw.of_isFieldCommand hi
    exact ⟨rfl, .inl ⟨rfl, rfl⟩, fun w h4 hfr => (hostRead_succeed _ h4).trans (hostRead_writeFR s v hfr)⟩
  · exact ⟨rfl, .inr ⟨rfl, rfl⟩, fun w h4 _ => hostRead_failWith s e h4⟩

/-- Settles O52: a success is a write of R, a failure error entry alone. -/
theorem pointCommandFrame : Obligations.PointCommandFrame := by
  intro i s t hi h
  obtain ⟨u, hw, rfl⟩ | ⟨e, _, rfl⟩ := exec_next_cases h
  · obtain ⟨v, rfl⟩ := hw.of_isPointCommand hi
    refine ⟨by cases v <;> rfl, .inl ⟨by simp, by simp⟩, fun w h4 h8 hx hy => ?_⟩
    exact (hostRead_succeed _ h4).trans (hostRead_writeR s v h8 hx hy)
  · exact ⟨rfl, .inr ⟨rfl, rfl, rfl, rfl⟩, fun w h4 _ _ _ => hostRead_failWith s e h4⟩

/-- Settles O53: a success loads a row, a failure is error entry alone. -/
theorem ldcurveFrame : Obligations.LdcurveFrame := by
  intro cid s t h
  obtain ⟨u, ⟨row, _, rfl⟩, rfl⟩ | ⟨e, _, rfl⟩ := exec_next_cases h
  · exact ⟨rfl, .inl ⟨rfl, rfl⟩,
      fun w h4 hk hc hb => (hostRead_succeed _ h4).trans (hostRead_loadRow s row hk hc hb)⟩
  · exact ⟨rfl, .inr ⟨rfl, rfl, rfl, rfl, rfl, rfl, rfl, rfl, rfl⟩, fun w h4 _ _ _ => hostRead_failWith s e h4⟩

/-- Settles O55: host transactions, idle turns and LDCURVE leave `FR` and R as they were. -/
theorem onlyCompletionWritesResults : Obligations.OnlyCompletionWritesResults := by
  intro s t h hchange
  have hne : ¬ SameResults s.pop t := fun ⟨hfr, hinf, hx, hy⟩ => by rcases hchange with hc | hc | hc | hc <;> contradiction
  obtain ⟨_, _, rfl⟩ | ⟨i, hb, hnext, hd, he⟩ | ⟨w, _, _, rfl⟩ | ⟨w, v, _, _, rfl⟩ | ⟨rest, hp, _⟩ := step_next_cases h
  · exact absurd ⟨rfl, rfl, rfl, rfl⟩ hne
  · obtain hi | hi | ⟨cid, rfl⟩ := command_family i
    · exact .inr ⟨hb, hnext, i, hd, .inl hi⟩
    · exact .inr ⟨hb, hnext, i, hd, .inr hi⟩
    · exact absurd (exec_ldcurve_sameResults he) hne
  · exact absurd ⟨rfl, rfl, rfl, rfl⟩ hne
  · exact absurd (hostWrite_sameResults w v s.pop) hne
  · exact .inl ⟨rest, hp⟩

/-- Settles O56: reads, idle turns, writes while busy, field and point commands leave the curve registers as they were. -/
theorem onlyLdcurveAndHostWriteTheCurve : Obligations.OnlyLdcurveAndHostWriteTheCurve := by
  intro s t h hchange
  have hne : ¬ SameCurve s.pop t := fun ⟨h1, h2, h3, h4, h5, h6, h7, h8⟩ => by
    rcases hchange with hc | hc | hc | hc | hc | hc | hc | hc <;> contradiction
  obtain ⟨_, _, rfl⟩ | ⟨i, hb, hnext, hd, he⟩ | ⟨w, _, _, rfl⟩ | ⟨w, v, rest, hp, rfl⟩ | ⟨rest, hp, _⟩ := step_next_cases h
  · exact absurd (by constructor <;> rfl) hne
  · obtain hi | hi | ⟨cid, rfl⟩ := command_family i
    · exact absurd (exec_sameCurve (.inl hi) he) hne
    · exact absurd (exec_sameCurve (.inr hi) he) hne
    · exact .inr (.inr ⟨hb, hnext, cid, hd⟩)
  · exact absurd (by constructor <;> rfl) hne
  · cases hb : s.busy with
    | true => exact absurd (hostWrite_sameCurve_of_busy w v (s := s.pop) hb) hne
    | false => exact .inr (.inl ⟨rfl, w, v, rest, hp⟩)
  · exact .inl ⟨rest, hp⟩

/-- Settles O7: every bit the invariant speaks of is 0 after reset. -/
theorem resetMeetsTheInvariant : Obligations.ResetMeetsTheInvariant := reset_inv

end Sys2Proof.Machine
end

section
/-! The statements of 20_memory.md: what the window's offsets read and store (R72, R73, R77, R78), the reserved offsets (R79), and host transactions under a running command (R78, 10_state.md R40). -/

namespace Sys2Proof.Machine

open Sys2Proof.Stated

/-! ### Where the offsets lie -/

/-- The offset table of the statements is the model's `baseOf` (20_memory.md R72). -/
theorem mem_offsetTable {r : BigReg} {b : Nat} : (r, b) ∈ offsetTable ↔ b = baseOf r := by
  have htable : offsetTable = bigRegs := rfl
  have hall : r ∈ [BigReg.cp, .ca, .cb, .cgx, .cgy, .cn, .fa, .fb, .fr, .px, .py, .qx, .qy, .rx, .ry, .k] := by
    cases r <;> decide
  simp only [htable, bigRegs, List.mem_map, Prod.mk.injEq]
  exact ⟨fun ⟨_, _, hr, hb⟩ => hr ▸ hb.symm, fun hb => ⟨r, hall, rfl, hb.symm⟩⟩

/-- A big register takes a slot of 32 bytes between the one-word registers and 0x218. -/
theorem baseOf_bounds (r : BigReg) : 0x20 ≤ baseOf r ∧ baseOf r ≤ 0x200 ∧ baseOf r % 32 = 0 := by
  cases r <;> decide

theorem offset_wordAt_bigReg (r : BigReg) {j : Nat} (hj : j < 6) :
    4 * (wordAt (baseOf r + 4 * j)).val = baseOf r + 4 * j := by
  obtain ⟨_, hle, hmod⟩ := baseOf_bounds r
  rw [wordAt_val (by omega)]
  omega

/-- A word of the window that starts inside a big register is one of its six words. -/
theorem eq_wordAt_of_mem_bigReg {r : BigReg} {w : WordIndex} (h1 : baseOf r ≤ 4 * w.val)
    (h2 : 4 * w.val ≤ baseOf r + 0x14) : ∃ i, i < 6 ∧ w = wordAt (baseOf r + 4 * i) := by
  obtain ⟨_, _, hmod⟩ := baseOf_bounds r
  have hi : (4 * w.val - baseOf r) / 4 < 6 := by omega
  refine ⟨_, hi, Fin.ext ?_⟩
  have := offset_wordAt_bigReg r hi
  omega

theorem le_of_reservedOffset {off : Nat} (h : reservedOffset off) : 0x14 ≤ off := by
  obtain ⟨h, _⟩ | ⟨h, _⟩ | ⟨r, b, hr, h⟩ := h
  · exact h
  · omega
  · obtain ⟨hge, _, _⟩ := baseOf_bounds r
    rw [mem_offsetTable] at hr
    omega

/-- No word of a big register is reserved: a register's six words leave the last two of its slot (20_memory.md R72, R79). -/
theorem not_reservedOffset_bigReg (r : BigReg) {j : Nat} (hj : j < 6) : ¬ reservedOffset (baseOf r + 4 * j) := by
  obtain ⟨hge, hle, hmod⟩ := baseOf_bounds r
  rintro (⟨_, _⟩ | ⟨_, _⟩ | ⟨r', b, hr', h⟩)
  · omega
  · omega
  · obtain ⟨_, _, hmod'⟩ := baseOf_bounds r'
    rw [mem_offsetTable] at hr'
    omega

/-! ### Reads -/

theorem hostRead_cmd (s : State) : hostRead (wordAt 0x000) s = 0 := rfl

theorem hostRead_status (s : State) : hostRead (wordAt 0x004) s = statusWord s := rfl

theorem hostRead_pflags (s : State) : hostRead (wordAt 0x008) s = pflagsWord s := rfl

theorem hostRead_keybits (s : State) : hostRead (wordAt 0x00C) s = s.keybits := rfl

theorem hostRead_cofactor (s : State) : hostRead (wordAt 0x010) s = s.cofactor := rfl

theorem hostRead_reserved (s : State) {w : WordIndex} (h : reservedOffset (4 * w.val)) : hostRead w s = 0 := by
  have hge := le_of_reservedOffset h
  have hnone : locate bigRegs (4 * w.val) = none := by
    refine Option.eq_none_iff_forall_not_mem.2 fun ⟨r, j⟩ hl => ?_
    obtain ⟨hj, hw⟩ := locate_bigRegs_inv hl
    exact not_reservedOffset_bigReg r hj (hw ▸ h)
  unfold hostRead
  simp only [hnone]
  rw [if_neg (by omega), if_neg (by omega), if_neg (by omega), if_neg (by omega), if_neg (by omega)]

/-- Bits put side by side: the left ones weigh above the right ones. -/
theorem toNat_append_eq_add {m n : Nat} (x : BitVec m) (y : BitVec n) :
    (x ++ y).toNat = x.toNat * 2 ^ n + y.toNat := by
  rw [BitVec.toNat_append, ← Nat.shiftLeft_add_eq_or_of_lt y.isLt, Nat.shiftLeft_eq]

/-- The value of `STATUS` by its fields (10_state.md R45). -/
theorem statusWord_toNat (s : State) :
    (statusWord s).toNat = s.busy.toNat + 2 * s.done.toNat + 4 * s.err.toNat + 256 * s.errcode.toNat := by
  simp only [statusWord, toNat_append_eq_add, bit, BitVec.toNat_ofBool, BitVec.toNat_ofNat]
  omega

/-- The value of `PFLAGS` by its fields (10_state.md R46). -/
theorem pflagsWord_toNat (s : State) :
    (pflagsWord s).toNat = s.pinf.toNat + 2 * s.qinf.toNat + 4 * s.rinf.toNat := by
  simp only [pflagsWord, toNat_append_eq_add, bit, BitVec.toNat_ofBool, BitVec.toNat_ofNat]
  omega

/-- The value of word j (20_memory.md R73). -/
theorem bigWord_toNat (x : Big) (j : Nat) : (bigWord x j).toNat = x.toNat / 2 ^ (160 - 32 * j) % 2 ^ 32 := by
  rw [bigWord, BitVec.extractLsb'_toNat, Nat.shiftRight_eq_div_pow]

theorem toNat_eq_sum_bigWord (x : Big) : x.toNat = ∑ j ∈ Finset.range 6, (bigWord x j).toNat * 2 ^ (32 * (5 - j)) := by
  simpa [Finset.sum_range_succ] using toNat_eq_words x

/-! ### The step that takes the head of `pending` -/

theorem step_of_pending {s : State} {e : Event} {rest : List Event} (hp : s.pending = e :: rest) :
    step s = takeEvent e { s with pending := rest } := by
  simp only [step, hp]

/-- The list of events is no part of what is read. -/
theorem hostRead_pending (s : State) (events : List Event) (w : WordIndex) :
    hostRead w { s with pending := events } = hostRead w s :=
  hostRead_congr w (fun r => by cases r <;> rfl) rfl rfl rfl rfl

theorem step_hostRead {s : State} {w : WordIndex} {rest : List Event} (hp : s.pending = .hostRead w :: rest) :
    step s = .next { s with pending := rest, answers := s.answers ++ [hostRead w s] } := by
  rw [step_of_pending hp, ← hostRead_pending s rest w]
  rfl

/-! ### Writes -/

theorem hostWrite_reserved (s : State) (v : Word) {w : WordIndex} (h : reservedOffset (4 * w.val)) :
    hostWrite w v s = s := by
  have hge := le_of_reservedOffset h
  obtain ⟨hw, _⟩ | hs | ⟨_, hw, _⟩ | ⟨_, hw, _⟩ | ⟨_, hw, _⟩ | ⟨_, hw, _⟩ | ⟨r, j, _, _, hj, hw, _⟩ := hostWrite_cases w v s
  case inr.inl => exact hs
  case inr.inr.inr.inr.inr.inr => exact absurd (hw ▸ h) (not_reservedOffset_bigReg r hj)
  all_goals omega

theorem hostWrite_pflags (v : Word) {s : State} (hb : s.busy = false) :
    hostWrite (wordAt 0x008) v s = writePflags v s := by
  simp [hostWrite, wordAt, hb]

/-- One bit of `PFLAGS` (10_state.md R46). -/
theorem pflagsWord_getLsbD (s : State) (i : Nat) :
    (pflagsWord s).getLsbD i = (decide (i = 0) && s.pinf || decide (i = 1) && s.qinf || decide (i = 2) && s.rinf) := by
  rw [pflagsWord, bit, bit, bit, BitVec.getLsbD_append, BitVec.getLsbD_append, BitVec.getLsbD_append]
  match i with
  | 0 | 1 | 2 => simp
  | i + 3 => simp

/-- `PFLAGS` read back after a write: bits 0 and 1 as written, `RINF` as it was. -/
theorem pflagsWord_writePflags (s : State) (v : Word) :
    pflagsWord (writePflags v s) = (v &&& 3#32) ||| (pflagsWord s &&& 4#32) := by
  apply BitVec.eq_of_getLsbD_eq
  intro i hi
  rw [BitVec.getLsbD_or, BitVec.getLsbD_and, BitVec.getLsbD_and, pflagsWord_getLsbD, pflagsWord_getLsbD]
  match i with
  | 0 | 1 | 2 => simp
  | i + 3 =>
    have h3 : (3#32).getLsbD (i + 3) = false := by simp [BitVec.getLsbD_ofNat, Nat.testBit_succ]
    simp [h3]

theorem hostWrite_keybits (v : Word) {s : State} (hb : s.busy = false) :
    hostWrite (wordAt 0x00C) v s = { s with keybits := v } := by
  simp [hostWrite, wordAt, hb]

theorem hostWrite_cofactor (v : Word) {s : State} (hb : s.busy = false) :
    hostWrite (wordAt 0x010) v s = { s with cofactor := v } := by
  simp [hostWrite, wordAt, hb]

/-- The host's write of word j of a writable big register (20_memory.md R78). -/
theorem hostWrite_bigReg (v : Word) {s : State} {r : BigReg} {j : Nat} (hb : s.busy = false)
    (hr : r.hostWritable = true) (hj : j < 6) :
    hostWrite (wordAt (baseOf r + 4 * j)) v s = s.setBig r (setBigWord (s.big r) j v) := by
  obtain ⟨hge, _, _⟩ := baseOf_bounds r
  have hoff := offset_wordAt_bigReg r hj
  have hl : locate rwBig (4 * (wordAt (baseOf r + 4 * j)).val) = some (r, j) := by
    rw [locate_rwBig, hoff, locate_bigRegs r hj]
    simp [hr]
  unfold hostWrite
  simp only [hl, hb, Bool.false_eq_true, if_false]
  rw [if_neg (by omega), if_neg (by omega), if_neg (by omega), if_neg (by omega), if_neg (by omega)]

/-- Storing word j of a big register leaves every other word of the window. -/
theorem hostRead_setBigWord_other (s : State) (r : BigReg) (v : Word) {j : Nat} (hj : j < 6) {w : WordIndex}
    (h : 4 * w.val ≠ baseOf r + 4 * j) : hostRead w (s.setBig r (setBigWord (s.big r) j v)) = hostRead w s := by
  by_cases hin : baseOf r ≤ 4 * w.val ∧ 4 * w.val ≤ baseOf r + 0x14
  · obtain ⟨i, hi, rfl⟩ := eq_wordAt_of_mem_bigReg hin.1 hin.2
    have hij : i ≠ j := fun hij => h (hij ▸ offset_wordAt_bigReg r hi)
    rw [hostRead_bigReg _ r hi, hostRead_bigReg _ r hi, big_setBig_same, bigWord_setBigWord_other _ v hi hj hij]
  · refine hostRead_congr_at w (fun _ => by simp [statusWord]) (fun _ => by simp [pflagsWord]) (fun _ => by simp)
      (fun _ => by simp) fun r' h1 h2 => big_setBig_other s _ ?_
    rintro rfl
    exact hin ⟨h1, h2⟩

theorem hostWritable_of_ne {r : BigReg} (hfr : r ≠ .fr) (hrx : r ≠ .rx) (hry : r ≠ .ry) : r.hostWritable = true := by
  cases r
  case fr | rx | ry => contradiction
  all_goals rfl

/-! ### Under a running command -/

/-- While a command runs no error is pending (10_state.md R47), so a write of `STATUS` finds none to clear and any other is dropped. -/
theorem hostWrite_eq_self_of_busy {s : State} (hs : StatusLegal s) (hb : s.busy = true) (w : WordIndex) (v : Word) :
    hostWrite w v s = s := by
  obtain ⟨herr, _⟩ := hs.1 hb
  obtain ⟨_, h⟩ | h | ⟨hi, _⟩ | ⟨hi, _⟩ | ⟨hi, _⟩ | ⟨hi, _⟩ | ⟨_, _, hi, _⟩ := hostWrite_cases w v s
  · rw [h, State.clearError, if_neg (by simp [herr])]
  · exact h
  all_goals simp [hb] at hi

/-! ### The obligations -/

/-- Settles O16: each offset of the window by its own read lemma, and the step that takes a read off the list. -/
theorem hostReadReturnsTheRegisters : Obligations.HostReadReturnsTheRegisters := by
  intro s
  refine ⟨hostRead_cmd s, statusWord_toNat s, pflagsWord_toNat s, hostRead_keybits s, hostRead_cofactor s, ?_,
    fun w h => hostRead_reserved s h, fun w rest => step_hostRead⟩
  intro r b hr j hj
  obtain rfl := mem_offsetTable.1 hr
  exact hostRead_bigReg s r hj

/-- Settles O17: a read of word j answers `bigWord`, and a value is the weighted sum of its six words. -/
theorem bigRegistersAreBigEndianWords : Obligations.BigRegistersAreBigEndianWords := by
  intro s r b hr
  obtain rfl := mem_offsetTable.1 hr
  constructor
  · intro j hj
    rw [hostRead_bigReg s r hj, bigWord_toNat]
  · rw [toNat_eq_sum_bigWord (s.big r)]
    refine Finset.sum_congr rfl fun j hj => ?_
    rw [hostRead_bigReg s r (Finset.mem_range.1 hj)]

/-- Settles O18: the write stores word j by `setBigWord`, which the word itself reads back and every other word does not see. -/
theorem hostWriteStoresOneWord : Obligations.HostWriteStoresOneWord := by
  intro s r b j v hr hfr hrx hry hj hb
  obtain rfl := mem_offsetTable.1 hr
  rw [hostWrite_bigReg v hb (hostWritable_of_ne hfr hrx hry) hj]
  refine ⟨?_, fun w hw => hostRead_setBigWord_other s r v hj hw, _, rfl⟩
  rw [hostRead_bigReg _ r hj, big_setBig_same, bigWord_setBigWord_same _ v hj]

/-- Settles O22: a read adds an answer, and a write while a command runs changes nothing. -/
theorem nothingChangesUnderARunningCommand : Obligations.NothingChangesUnderARunningCommand := by
  intro s t e rest hs hb hp hengine hreset h
  rw [step_of_pending hp] at h
  cases e with
  | hostRead w => injection h with h; subst h; rfl
  | hostWrite w v =>
    have hdrop := hostWrite_eq_self_of_busy (s := { s with pending := rest }) hs hb w v
    injection h with h
    rw [← h, hdrop]
  | reset => exact absurd rfl hreset
  | engine => exact absurd rfl hengine

/-- Settles O19: the three one-word registers, each by its own write lemma. -/
theorem hostWriteStoresTagsAndSizes : Obligations.HostWriteStoresTagsAndSizes := by
  intro s v hb
  refine ⟨hostWrite_pflags v hb, ?_, hostWrite_keybits v hb, hostWrite_cofactor v hb⟩
  rw [hostWrite_pflags v hb, hostRead_pflags, hostRead_pflags, pflagsWord_writePflags]

/-- Settles O20: a reserved offset lies past the one-word registers and in no big register. -/
theorem reservedOffsetsAreInert : Obligations.ReservedOffsetsAreInert :=
  fun s _ v h => ⟨hostRead_reserved s h, hostWrite_reserved s v h⟩

end Sys2Proof.Machine
end

section
/-! The statements of 30_encoding.md: the command word and its decoder (R101 to R106), issue and the engine's turn (R109 to R112), and the two script lines over a big register (R114). -/

namespace Sys2Proof

/-! ### The fields of a word -/

theorem opField_toNat (c : Word) : (opField c).toNat = c.toNat % 256 := by
  rw [opField, BitVec.extractLsb'_toNat, Nat.shiftRight_zero]

theorem immField_toNat (c : Word) : (immField c).toNat = c.toNat / 256 % 256 := by
  rw [immField, BitVec.extractLsb'_toNat, Nat.shiftRight_eq_div_pow]

theorem zeroField_toNat (c : Word) : (zeroField c).toNat = c.toNat / 2 ^ 16 := by
  have hc := c.isLt
  rw [zeroField, BitVec.extractLsb'_toNat, Nat.shiftRight_eq_div_pow]
  omega

/-- A word is a command's word when its three fields are the command's (30_encoding.md R101). -/
theorem encode_eq_iff (c : Word) (i : Instr) :
    encode i = c ↔ zeroField c = 0#16 ∧ immField c = immOf i ∧ opField c = opcodeOf i := by
  constructor
  · rintro rfl
    exact ⟨zeroField_encode i, immField_encode i, opField_encode i⟩
  · rintro ⟨hz, hi, ho⟩
    rw [encode, ← hz, ← hi, ← ho, fields_append]

/-! ### The decoder and the encoder are inverse to each other -/

theorem immOf_ldcurve_toNat {cid : Nat} (h : (Instr.ldcurve cid).wellFormed = true) :
    (immOf (.ldcurve cid)).toNat = cid := by
  simpa [immOf] using of_decide_eq_true h

theorem decode_encode {i : Instr} (h : i.wellFormed = true) : decode (encode i) = .ok i := by
  cases i with
  | ldcurve cid =>
    rw [decode, zeroField_encode, opField_encode, immField_encode, immOf_ldcurve_toNat h]
    rfl
  | _ => rfl

/-- What an opcode other than LDCURVE's stands for has that opcode and no operand (30_encoding.md R103). -/
theorem decodeOp_ok {op : BitVec 8} {i : Instr} (h : decodeOp op = .ok i) :
    i.wellFormed = true ∧ immOf i = 0#8 ∧ opcodeOf i = op := by
  unfold decodeOp at h
  split_ifs at h with hop hop hop hop hop hop hop hop hop <;> cases h <;> exact ⟨rfl, rfl, hop.symm⟩

theorem encode_of_decode {c : Word} {i : Instr} (h : decode c = .ok i) : i.wellFormed = true ∧ encode i = c := by
  rw [encode_eq_iff]
  unfold decode at h
  split_ifs at h with hzero hop himm
  · cases h
    exact ⟨decide_eq_true (immField c).isLt, not_not.1 hzero, by simp [immOf], hop⟩
  · obtain ⟨hwf, himmOf, hopcode⟩ := decodeOp_ok h
    exact ⟨hwf, not_not.1 hzero, (not_not.1 himm).trans himmOf.symm, hopcode.symm⟩

/-- THE DECODER INVERTS THE ENCODER: one word stands for a well-formed command, and nothing else decodes (30_encoding.md R104, R106). -/
theorem decode_eq_ok_iff (c : Word) (i : Instr) : decode c = .ok i ↔ i.wellFormed = true ∧ encode i = c :=
  ⟨encode_of_decode, fun ⟨hwf, hc⟩ => hc ▸ decode_encode hwf⟩

/-! ### The opcode table -/

/-- The nine rows without an operand: the mask has every bit, so a row is one word (30_encoding.md R103). -/
theorem decode_eq_ok_iff_selectsRow (c : Word) {i : Instr} (h : ∀ cid, i ≠ .ldcurve cid) :
    decode c = .ok i ↔ selectsRow c i := by
  have hrow : i.wellFormed = true ∧ maskOf i = BitVec.allOnes 32 ∧ encode i = patternOf i := by
    cases i with
    | ldcurve cid => exact absurd rfl (h cid)
    | _ => decide
  obtain ⟨hwf, hmask, hword⟩ := hrow
  rw [decode_eq_ok_iff, selectsRow, hmask, BitVec.and_allOnes, hword, eq_comm (a := c)]
  exact and_iff_right hwf

/-- LDCURVE's row leaves `IMM` free, and `CID` is its value (30_encoding.md R102, R103). -/
theorem decode_eq_ok_ldcurve_iff (c : Word) (cid : Nat) :
    decode c = .ok (.ldcurve cid) ↔ selectsRow c (.ldcurve cid) ∧ cid = (immField c).toNat := by
  rw [decode_eq_ok_iff, encode_eq_iff, selectsRow, maskOf, patternOf, ldcurveRow_iff]
  constructor
  · rintro ⟨hwf, hz, hi, ho⟩
    exact ⟨⟨hz, ho⟩, by rw [hi, immOf_ldcurve_toNat hwf]⟩
  · rintro ⟨⟨hz, ho⟩, rfl⟩
    exact ⟨decide_eq_true (immField c).isLt, hz, by simp [immOf], ho⟩

/-! ### The illegal words -/

theorem decodeOp_eq_error_iff (op : BitVec 8) :
    (∃ e, decodeOp op = .error e) ↔
      op ∉ [0x01#8, 0x02#8, 0x03#8, 0x04#8, 0x05#8, 0x06#8, 0x10#8, 0x11#8, 0x12#8] := by
  unfold decodeOp
  split_ifs with hop hop hop hop hop hop hop hop hop
  case neg => simp_all
  all_goals simp [hop]

/-- The three tests of the decoder refuse what 30_encoding.md R105 lists. -/
theorem decode_eq_error_iff (c : Word) :
    (∃ e, decode c = .error e) ↔
      zeroField c ≠ 0#16 ∨ (immField c ≠ 0#8 ∧ opField c ≠ 0x20#8) ∨
        opField c ∉ [0x01#8, 0x02#8, 0x03#8, 0x04#8, 0x05#8, 0x06#8, 0x10#8, 0x11#8, 0x12#8, 0x20#8] := by
  unfold decode
  split_ifs with hzero hop himm
  · simp [hzero]
  · simp [not_not.1 hzero, hop]
  · simp [himm, hop]
  · rw [decodeOp_eq_error_iff]
    simp [not_not.1 hzero, hop, not_not.1 himm]

end Sys2Proof

namespace Sys2Proof.Machine

/-! ### Issue -/

theorem hostWrite_cmd (c : Word) {s : State} (hb : s.busy = false) : hostWrite (wordAt 0x000) c s = issue c s := by
  simp [hostWrite, wordAt, hb]

theorem issue_of_err (c : Word) {s : State} (he : s.err = true) : issue c s = s := by
  simp [issue, he]

theorem issue_of_decode_ok {c : Word} {i : Instr} {s : State} (he : s.err = false) (hd : decode c = .ok i) :
    issue c s = s.accept c := by
  simp [issue, he, hd]

/-- An illegal word writes `ERR`, `ERRCODE` and `DONE`; `BUSY` is 0 already (30_encoding.md R111). -/
theorem issue_of_decode_error {c : Word} {e : Illegal} {s : State} (hb : s.busy = false) (he : s.err = false)
    (hd : decode c = .error e) : issue c s = { s with err := true, errcode := 7, done := true } := by
  simp [issue, he, hd, State.recordError, ErrKind.code, hb]

/-- The step that takes a write of a legal word to `CMD` off the list (30_encoding.md R110). -/
theorem step_issue {s : State} {c : Word} {i : Instr} {rest : List Event}
    (hp : s.pending = .hostWrite (wordAt 0x000) c :: rest) (hb : s.busy = false) (he : s.err = false)
    (hd : decode c = .ok i) : step s = .next (State.accept { s with pending := rest } c) := by
  rw [step_of_pending hp]
  exact congrArg Host.Outcome.next ((hostWrite_cmd (s := { s with pending := rest }) c hb).trans
    (issue_of_decode_ok he hd))

/-! ### The engine's turn -/

theorem engineTurn_of_decode {s : State} {i : Instr} (hb : s.busy = true) (hd : decode s.cur = .ok i) :
    engineTurn s = exec i s := by
  simp [engineTurn, hb, hd]

theorem step_of_pending_nil {s : State} (hp : s.pending = []) : step s = engineTurn s := by
  simp only [step, hp]

theorem step_engine {s : State} {i : Instr} {rest : List Event} (hp : s.pending = .engine :: rest)
    (hb : s.busy = true) (hd : decode s.cur = .ok i) : step s = exec i { s with pending := rest } := by
  rw [step_of_pending hp]
  exact engineTurn_of_decode (s := { s with pending := rest }) hb hd

/-- A word of the port keeps all its bits on its way into `CUR`. -/
theorem withFetchWord_toNat (s : State) (c : Word) :
    s.withFetchWord 32 c.toNat =
      { s with cur := c, busy := true, done := false, err := false, errcode := 0, pending := .engine :: s.pending } := by
  rw [State.withFetchWord, Nat.mod_eq_of_lt c.isLt, BitVec.ofNat_toNat, BitVec.setWidth_eq]

/-! ### `WRBIG` and `RDBIG` -/

theorem setBig_setBig (s : State) (r : BigReg) (x y : Big) : (s.setBig r x).setBig r y = s.setBig r y := by
  cases r <;> rfl

/-- Six words fix a value (20_memory.md R73). -/
theorem big_ext_bigWord {x y : Big} (h : ∀ j < 6, bigWord x j = bigWord y j) : x = y := by
  apply BitVec.eq_of_toNat_eq
  rw [toNat_eq_sum_bigWord, toNat_eq_sum_bigWord]
  exact Finset.sum_congr rfl fun j hj => by rw [h j (Finset.mem_range.1 hj)]

/-- After n writes of `WRBIG` only the register has changed, and its first n words are the value's. -/
theorem wrbigWords_eq_setBig {s : State} {r : BigReg} (v : Big) (hb : s.busy = false) (hr : r.hostWritable = true)
    {n : Nat} (hn : n ≤ 6) :
    ∃ x, wrbigWords r v n s = s.setBig r x ∧ ∀ j < n, bigWord x j = bigWord v j := by
  induction n with
  | zero => exact ⟨s.big r, (s.setBig_self r).symm, by simp⟩
  | succ n ih =>
    obtain ⟨x, hx, hwords⟩ := ih (by omega)
    refine ⟨setBigWord x n (bigWord v n), ?_, fun j hj => ?_⟩
    · rw [wrbigWords, wr, hx, hostWrite_bigReg _ (by simpa using hb) hr hn, big_setBig_same, setBig_setBig]
    · by_cases hjn : j = n
      · rw [hjn, bigWord_setBigWord_same _ _ hn]
      · rw [bigWord_setBigWord_other _ _ (by omega) hn hjn]
        exact hwords j (by omega)

theorem wrbig_eq_setBig {s : State} {r : BigReg} (v : Big) (hb : s.busy = false) (hr : r.hostWritable = true) :
    wrbig r v s = s.setBig r v := by
  obtain ⟨x, hx, hwords⟩ := wrbigWords_eq_setBig v hb hr (le_refl 6)
  rw [wrbig, hx, big_ext_bigWord hwords]

/-- The first n words read are the register's high 32·n bits. -/
theorem rdbigWords_eq_div (r : BigReg) (s : State) {n : Nat} (hn : n ≤ 6) :
    rdbigWords r s n = (s.big r).toNat / 2 ^ (192 - 32 * n) := by
  induction n with
  | zero => exact (Nat.div_eq_of_lt (s.big r).isLt).symm
  | succ n ih =>
    have hpow : 2 ^ (192 - 32 * n) = 2 ^ (192 - 32 * (n + 1)) * 2 ^ 32 := by
      rw [← Nat.pow_add]
      congr 1
      omega
    have hexp : 160 - 32 * n = 192 - 32 * (n + 1) := by omega
    rw [rdbigWords, ih (by omega), rd, hostRead_bigReg s r hn, bigWord_toNat, hexp, hpow, ← Nat.div_div_eq_div_mul,
      Nat.div_add_mod']

theorem rdbig_eq_big (r : BigReg) (s : State) : rdbig r s = s.big r := by
  rw [rdbig, rdbigWords_eq_div r s (le_refl 6), Nat.sub_self, Nat.pow_zero, Nat.div_one, BitVec.ofNat_toNat,
    BitVec.setWidth_eq]

/-! ### The obligations -/

/-- Settles O2: the fields of an encoded command are the command's own, and the decoder's tests read them. -/
theorem decodeOfEncodeIsTheCommand : Obligations.DecodeOfEncodeIsTheCommand := fun _ => decode_encode

/-- Settles O3: every branch of the decoder that answers a command fixes the word's three fields. -/
theorem encodeOfDecodeIsTheWord : Obligations.EncodeOfDecodeIsTheWord := fun _ _ => encode_of_decode

/-- Settles O4: the nine rows of one word each, and LDCURVE's. -/
theorem decodeFollowsTheOpcodeTable : Obligations.DecodeFollowsTheOpcodeTable := by
  intro c
  have hrow {i : Instr} := decode_eq_ok_iff_selectsRow c (i := i)
  refine ⟨hrow nofun, hrow nofun, hrow nofun, hrow nofun, hrow nofun, hrow nofun, hrow nofun, hrow nofun, hrow nofun,
    fun cid => ?_⟩
  rw [← immField_toNat]
  exact decode_eq_ok_ldcurve_iff c cid

/-- Settles O23: an idle block gives the word to `Issue`, which tests `ERR` and then the word. -/
theorem issueDropsRejectsOrAccepts : Obligations.IssueDropsRejectsOrAccepts := by
  intro s c hb
  rw [hostWrite_cmd c hb]
  exact ⟨issue_of_err c, fun he _ => issue_of_decode_error hb he, fun he _ => issue_of_decode_ok he⟩

/-- Settles O5: the decoder's tests in numbers, and the rejection of an illegal word. -/
theorem illegalWordsAreExactlyTheRest : Obligations.IllegalWordsAreExactlyTheRest := by
  constructor
  · intro c
    rw [decode_eq_error_iff, ← zeroField_toNat, ← immField_toNat, ← opField_toNat]
    simp [← BitVec.toNat_inj]
  · rintro c s ⟨e, hd⟩ hb he
    rw [hostWrite_cmd c hb, issue_of_decode_error hb he hd]

/-- Settles O15: the write is an acceptance, and the engine's turn then runs the word it left in `CUR`. -/
theorem issuedCommandIsRun : Obligations.IssuedCommandIsRun := by
  intro s i rest hwf hb he hp
  have hd := decode_encode hwf
  exact ⟨_, step_issue hp hb he hd, rfl, rfl, step_engine rfl rfl hd⟩

/-- Settles O57: the six writes make up one store, and the six reads its value. -/
theorem wrbigSetsTheRegister : Obligations.WrbigSetsTheRegister := by
  intro s r v hfr hrx hry hb
  have hw := wrbig_eq_setBig v hb (hostWritable_of_ne hfr hrx hry)
  exact ⟨hw, by rw [rdbig_eq_big, hw, big_setBig_same]⟩

/-- Settles O1: the legal words are encodings, and the others meet one of R105's tests. -/
theorem writtenWordsDecode : Obligations.WrittenWordsDecode := by
  have hok {c : Word} {i : Instr} : i.wellFormed = true ∧ encode i = c → decode c = .ok i := (decode_eq_ok_iff c i).2
  obtain ⟨hillegal, _⟩ := illegalWordsAreExactlyTheRest
  refine ⟨hok ⟨rfl, rfl⟩, hok ⟨rfl, rfl⟩, hok ⟨rfl, rfl⟩, hok ⟨rfl, rfl⟩, hok ⟨rfl, rfl⟩, hok ⟨rfl, rfl⟩,
    hok ⟨rfl, rfl⟩, hok ⟨rfl, rfl⟩, hok ⟨rfl, rfl⟩, hok ⟨rfl, rfl⟩, hok ⟨rfl, rfl⟩, hok ⟨rfl, rfl⟩, hok ⟨rfl, rfl⟩,
    fun c hc => (hillegal c).2 ?_⟩
  revert c
  simp

/-- Settles O13: the engine's turn, listed first or taken because nothing is listed. -/
theorem engineTurnRunsTheDecodedCommand : Obligations.EngineTurnRunsTheDecodedCommand := by
  intro s i hb hd
  exact ⟨fun hp => (step_of_pending_nil hp).trans (engineTurn_of_decode hb hd), fun rest hp => step_engine hp hb hd⟩

/-- Settles O14: the state made is busy with the command's own word, the engine's turn first. -/
theorem fetchWordRunsTheCommand : Obligations.FetchWordRunsTheCommand := by
  intro s i hwf
  rw [withFetchWord_toNat]
  exact step_engine rfl rfl (decode_encode hwf)

end Sys2Proof.Machine
end

section
/-! The statements of 40_field_arithmetic.md: the range check that each field command begins with (R130), MODADD, MODSUB, MODMUL and MODSQR (R131 to R134), the shift-and-add construction (R135), and results in [0, `CP`) (R136). -/

namespace Sys2Proof.Machine

open Sys2Proof.Stated

/-! ### The range check before a command's computation -/

/-- Operands below `CP` let the computation run (40_field_arithmetic.md R130). -/
theorem complete_checked_inRange {s : State} {regs : List Big} (h : ∀ x ∈ regs, x < s.cp) (r : Except ErrKind State) :
    complete s (checked (inRange s.cp regs) r) = complete s r := by
  rw [(inRange_iff _ _).mpr h]; rfl

/-- One operand not below `CP` ends the command with OperandRange, whatever it would have computed (40_field_arithmetic.md R130). -/
theorem complete_checked_outOfRange {s : State} {regs : List Big} (h : ¬ ∀ x ∈ regs, x < s.cp)
    (r : Except ErrKind State) :
    complete s (checked (inRange s.cp regs) r) = .next (s.failWith .operandRange) := by
  rw [Bool.eq_false_iff.mpr (mt (inRange_iff _ _).mp h)]; rfl

theorem forall_mem_operands_iff (s : State) : (∀ x ∈ [s.fa, s.fb], x < s.cp) ↔ s.fa < s.cp ∧ s.fb < s.cp := by simp

/-! ### The four commands in range -/

theorem exec_modadd {s : State} (ha : s.fa < s.cp) (hb : s.fb < s.cp) :
    exec .modadd s = .next (s.writeFR (fadd s.fa.toNat s.fb.toNat s.cp.toNat)).succeed :=
  complete_checked_inRange ((forall_mem_operands_iff s).mpr ⟨ha, hb⟩) _

theorem exec_modsub {s : State} (ha : s.fa < s.cp) (hb : s.fb < s.cp) :
    exec .modsub s = .next (s.writeFR (fsub s.fa.toNat s.fb.toNat s.cp.toNat)).succeed :=
  complete_checked_inRange ((forall_mem_operands_iff s).mpr ⟨ha, hb⟩) _

theorem exec_modmul {s : State} (ha : s.fa < s.cp) (hb : s.fb < s.cp) :
    exec .modmul s = .next (s.writeFR (fmul s.fa.toNat s.fb.toNat s.cp.toNat)).succeed :=
  complete_checked_inRange ((forall_mem_operands_iff s).mpr ⟨ha, hb⟩) _

theorem exec_modsqr {s : State} (ha : s.fa < s.cp) :
    exec .modsqr s = .next (s.writeFR (fsqr s.fa.toNat s.cp.toNat)).succeed :=
  complete_checked_inRange (List.forall_mem_singleton.mpr ha) _

/-! ### The results -/

/-- One subtraction of p reduces the sum of two residues (40_field_arithmetic.md R131). -/
theorem fadd_eq_ite {a b p : Nat} (ha : a < p) (hb : b < p) :
    fadd a b p = if a + b < p then a + b else a + b - p := by
  unfold fadd
  split
  · next h => exact Nat.mod_eq_of_lt h
  · next h => rw [Nat.mod_eq_sub_mod (Nat.le_of_not_lt h), Nat.mod_eq_of_lt (by omega)]

/-- One addition of p brings a negative difference of two residues into [0, p) (40_field_arithmetic.md R132). -/
theorem fsub_eq_ite {a b p : Nat} (ha : a < p) (hb : b < p) :
    fsub a b p = if b ≤ a then a - b else a + p - b := by
  have hcast := imod_cast ((a : Int) - b) (Nat.zero_lt_of_lt ha)
  unfold fsub
  split
  · next h => rw [Int.emod_eq_of_lt (by omega) (by omega)] at hcast; omega
  · next h => rw [← Int.add_emod_right, Int.emod_eq_of_lt (by omega) (by omega)] at hcast; omega

/-- A value below a big register's is not narrowed when it is written to one (40_field_arithmetic.md R136). -/
theorem toNat_ofNat_of_lt {v : Nat} {m : Big} (h : v < m.toNat) : (BitVec.ofNat 192 v).toNat = v := by
  rw [BitVec.toNat_ofNat, Nat.mod_eq_of_lt (h.trans m.isLt)]

theorem ofNat_lt {v : Nat} {m : Big} (h : v < m.toNat) : BitVec.ofNat 192 v < m := by
  rw [BitVec.lt_def, toNat_ofNat_of_lt h]; exact h

/-- What a MODMUL of operands in range leaves in `FR` and `ERR` (40_field_arithmetic.md R133). -/
theorem exec_modmul_result {s : State} (ha : s.fa < s.cp) (hb : s.fb < s.cp) :
    ∃ t, exec .modmul s = .next t ∧ t.err = s.err ∧ t.fr.toNat = s.fa.toNat * s.fb.toNat % s.cp.toNat :=
  ⟨_, exec_modmul ha hb, rfl, toNat_ofNat_of_lt (fmul_lt _ _ (pos_of_lt ha))⟩

/-- A field command that succeeds leaves a residue in `FR` (40_field_arithmetic.md R136). -/
theorem CommandWrites.fr_lt {i : Instr} {s u : State} (hi : IsFieldCommand i) (h : CommandWrites i s u) :
    u.fr < u.cp := by
  have hw : ∃ v, v < s.cp.toNat ∧ u = s.writeFR v := by rcases hi with rfl | rfl | rfl | rfl | rfl | rfl <;> exact h
  obtain ⟨v, hv, rfl⟩ := hw
  exact ofNat_lt hv

/-- A point command that succeeds with an affine point leaves residues in `RX` and `RY` (40_field_arithmetic.md R136). -/
theorem CommandWrites.r_lt {i : Instr} {s u : State} (hi : IsPointCommand i) (h : CommandWrites i s u)
    (haffine : u.rinf = false) : u.rx < u.cp ∧ u.ry < u.cp := by
  have hw : ∃ v, InField s.cp.toNat v ∧ u = s.writeR v := by rcases hi with rfl | rfl | rfl <;> exact h
  obtain ⟨v, hv, rfl⟩ := hw
  cases v with
  | infinity => cases haffine
  | affine x y => exact ⟨ofNat_lt hv.1, ofNat_lt hv.2⟩

/-! ### The shift-and-add construction -/

theorem lt_two_pow_bitlen (v : Nat) : v < 2 ^ bitlen v := by
  unfold bitlen
  split
  · next h => rw [h]; exact Nat.zero_lt_one
  · exact Nat.lt_log2_self

theorem shiftAndAdd_lt (a b n : Nat) {p r : Nat} (hr : r < p) : shiftAndAdd a b p n r < p := by
  induction n generalizing r with
  | zero => exact hr
  | succ n ih =>
    have hp := Nat.zero_lt_of_lt hr
    refine ih ?_
    split
    · exact Nat.mod_lt _ hp
    · exact Nat.mod_lt _ hp

/-- One iteration doubles the running value and adds a when the bit of b is 1, modulo p (40_field_arithmetic.md R135). -/
theorem shiftAndAdd_iteration_modEq (a r p : Nat) {bit : Nat} (hbit : bit = 0 ∨ bit = 1) :
    (if bit = 1 then ((r + r) % p + a) % p else (r + r) % p) ≡ r * 2 + a * bit [MOD p] := by
  have hdouble : (r + r) % p ≡ r * 2 [MOD p] := by rw [← Nat.mul_two]; exact Nat.mod_modEq _ _
  obtain rfl | rfl := hbit
  · simpa using hdouble
  · simpa using (Nat.mod_modEq _ _).trans (hdouble.add_right a)

/-- The loop's invariant: with n bits of b to go, the result is the running value shifted by n, plus a times those bits, modulo p (40_field_arithmetic.md R135). -/
theorem shiftAndAdd_modEq (a b p n r : Nat) : shiftAndAdd a b p n r ≡ r * 2 ^ n + a * (b % 2 ^ n) [MOD p] := by
  induction n generalizing r with
  | zero => simp [shiftAndAdd, Nat.mod_one, Nat.ModEq.refl]
  | succ n ih =>
    have hiteration := shiftAndAdd_iteration_modEq a r p (Nat.mod_two_eq_zero_or_one (b / 2 ^ n))
    have hsplit : r * 2 ^ (n + 1) + a * (b % 2 ^ (n + 1)) =
        (r * 2 + a * (b / 2 ^ n % 2)) * 2 ^ n + a * (b % 2 ^ n) := by
      rw [Nat.mod_pow_succ]; ring
    rw [hsplit]
    exact (ih _).trans ((hiteration.mul_right _).add_right _)

/-! ### The obligations -/

/-- Settles O29: in range the sum is reduced by one subtraction, and out of range nothing is computed. -/
theorem modaddAdds : Obligations.ModaddAdds := by
  intro s
  refine ⟨fun ha hb => ?_, fun h => complete_checked_outOfRange (mt (forall_mem_operands_iff s).mp h) _⟩
  rw [exec_modadd ha hb, fadd_eq_ite ha hb]; rfl

/-- Settles O30: in range the difference is reduced by one addition, and out of range nothing is computed. -/
theorem modsubSubtracts : Obligations.ModsubSubtracts := by
  intro s
  refine ⟨fun ha hb => ?_, fun h => complete_checked_outOfRange (mt (forall_mem_operands_iff s).mp h) _⟩
  rw [exec_modsub ha hb, fsub_eq_ite ha hb]; rfl

/-- Settles O31: the reduced product fits `FR`, and exchanging the operands exchanges its factors. -/
theorem modmulMultiplies : Obligations.ModmulMultiplies := by
  intro s
  refine ⟨fun ha hb => ⟨exec_modmul ha hb, ?_⟩,
    fun h => complete_checked_outOfRange (mt (forall_mem_operands_iff s).mp h) _⟩
  rw [Nat.mul_comm]
  exact exec_modmul_result (s := { s with fa := s.fb, fb := s.fa }) hb ha

/-- Settles O32: MODSQR checks `FA` alone, and MODMUL of `FA` by itself has the same product. -/
theorem modsqrSquares : Obligations.ModsqrSquares := by
  intro s
  exact ⟨fun ha => ⟨exec_modsqr ha, exec_modmul_result (s := { s with fb := s.fa }) ha ha⟩,
    fun h => complete_checked_outOfRange (mt List.forall_mem_singleton.mp h) _⟩

/-- Settles O33: from 0 the loop's invariant gives a times the bitlen(b) bits of b, which are all of b, and the result is a residue. -/
theorem shiftAndAddIsModmul : Obligations.ShiftAndAddIsModmul := by
  intro a b p ha _
  have hmod := shiftAndAdd_modEq a b p (bitlen b) 0
  rw [Nat.zero_mul, Nat.zero_add, Nat.mod_eq_of_lt (lt_two_pow_bitlen b)] at hmod
  have hlt : shiftAndAdd a b p (bitlen b) 0 < p := shiftAndAdd_lt _ _ _ (Nat.zero_lt_of_lt ha)
  exact (Nat.mod_eq_of_lt hlt).symm.trans hmod

/-- Settles O54: a success writes a residue, and a failure sets `ERR`. -/
theorem resultsLieInTheField : Obligations.ResultsLieInTheField := by
  intro i s t _ h herr
  obtain ⟨u, hw, rfl⟩ | ⟨e, _, rfl⟩ := exec_next_cases h
  · exact ⟨hw.fr_lt, hw.r_lt⟩
  · cases herr

end Sys2Proof.Machine
end

section
/-! The statements of 41_modular_inverse.md: what `finv` and `fdiv` compute (R150, R152, R153), MODINV and MODDIV (R151, R152), and the host script that inverts and multiplies back (R155). -/

namespace Sys2Proof.Machine

/-! ### The inverse and the quotient -/

theorem finv_of_gcd_ne_one {b p : Nat} (hg : Nat.gcd b p ≠ 1) : finv b p = .error .noModularInverse := if_neg hg

/-- The loop starts from 0·b = p and 1·b = b modulo p, so it ends with a t such that t·b = gcd(p, b) modulo p (41_modular_inverse.md R153). -/
theorem euclidLoop_modEq (b p : Nat) : euclidLoop (b + 1) p b 0 1 * b ≡ Nat.gcd p b [ZMOD p] :=
  (Int.modEq_iff_dvd.mpr
    (euclidLoop_dvd (b + 1) p b 0 1 (Nat.lt_succ_self b) (by simp) (by simp))).symm

/-- A value coprime to the modulus has an inverse, and `finv` returns it reduced (41_modular_inverse.md R150). -/
theorem finv_of_gcd_eq_one {b p : Nat} (hp : 0 < p) (hg : Nat.gcd b p = 1) :
    ∃ r, finv b p = .ok r ∧ r < p ∧ b * r ≡ 1 [MOD p] := by
  refine ⟨_, if_pos hg, imod_lt _ hp, Int.natCast_modEq_iff.mp ?_⟩
  have hloop := euclidLoop_modEq b p
  rw [Nat.gcd_comm, hg, Int.mul_comm] at hloop
  rw [Nat.cast_mul, imod_cast _ hp]
  exact (Int.ModEq.mul_left _ (Int.mod_modEq _ _)).trans hloop

/-- Two residues that b takes to 1 are the same (41_modular_inverse.md R150). -/
theorem inverse_unique {b p r r' : Nat} (hg : Nat.gcd b p = 1) (hr : r < p) (hr' : r' < p)
    (h : b * r ≡ 1 [MOD p]) (h' : b * r' ≡ 1 [MOD p]) : r' = r :=
  (Nat.ModEq.cancel_left_of_coprime (Nat.gcd_comm p b ▸ hg) (h'.trans h.symm)).eq_of_lt_of_lt hr' hr

theorem fdiv_of_finv_ok (a : Nat) {b p i : Nat} (h : finv b p = .ok i) : fdiv a b p = .ok (fmul a i p) := by
  rw [fdiv, h]

theorem fdiv_of_finv_error (a : Nat) {b p : Nat} {e : ErrKind} (h : finv b p = .error e) : fdiv a b p = .error e := by
  rw [fdiv, h]

/-- The product of a residue a and the inverse of b, times b, is a again (41_modular_inverse.md R152). -/
theorem quotient_mul_divisor {a b p i : Nat} (ha : a < p) (h : b * i ≡ 1 [MOD p]) : a * i % p * b % p = a := by
  have hmod : a * i % p * b ≡ a [MOD p] :=
    calc a * i % p * b ≡ a * i * b [MOD p] := (Nat.mod_modEq _ _).mul_right b
      _ = a * (b * i) := by ring
      _ ≡ a * 1 [MOD p] := h.mul_left a
      _ = a := a.mul_one
  exact Nat.mod_eq_of_modEq hmod ha

/-! ### The two commands in range -/

theorem exec_modinv {s : State} (hb : s.fb < s.cp) :
    exec .modinv s = complete s (s.tryWriteFR (finv s.fb.toNat s.cp.toNat)) :=
  complete_checked_inRange (List.forall_mem_singleton.mpr hb) _

theorem exec_moddiv {s : State} (ha : s.fa < s.cp) (hb : s.fb < s.cp) :
    exec .moddiv s = complete s (s.tryWriteFR (fdiv s.fa.toNat s.fb.toNat s.cp.toNat)) :=
  complete_checked_inRange ((forall_mem_operands_iff s).mpr ⟨ha, hb⟩) _

/-- MODINV with an inverse writes it, a residue, to `FR` (41_modular_inverse.md R151). -/
theorem exec_modinv_of_gcd_eq_one {s : State} (hb : s.fb < s.cp) (hg : Nat.gcd s.fb.toNat s.cp.toNat = 1) :
    ∃ r, r < s.cp.toNat ∧ s.fb.toNat * r ≡ 1 [MOD s.cp.toNat] ∧ exec .modinv s = .next (s.writeFR r).succeed := by
  obtain ⟨r, hr, hlt, hmod⟩ := finv_of_gcd_eq_one (pos_of_lt hb) hg
  exact ⟨r, hlt, hmod, by rw [exec_modinv hb, hr]; rfl⟩

/-! ### The script's lines -/

/-- An idle block with no error pending, on which a script's `WRBIG` and `RUN` lines act (10_state.md R47, 20_memory.md R78, 30_encoding.md R110). -/
structure Ready (s : State) : Prop where
  busy : s.busy = false
  err : s.err = false
  errcode : s.errcode = 0

theorem Ready.setBig {s : State} (hs : Ready s) (r : BigReg) (v : Big) : Ready (s.setBig r v) :=
  ⟨(s.setBig_busy r v).trans hs.busy, (s.setBig_err r v).trans hs.err, (s.setBig_errcode r v).trans hs.errcode⟩

theorem Ready.succeed {s : State} (herr : s.err = false) (hcode : s.errcode = 0) : Ready s.succeed :=
  ⟨rfl, herr, hcode⟩

/-- A `RUN` line is the command's completion on the state that accepted its word (30_encoding.md R114, R112). -/
theorem runCmd_eq_exec {i : Instr} {s : State} (hs : Ready s) (hwf : i.wellFormed = true) :
    runCmd i s = exec i (s.accept (encode i)) := by
  have hd := decode_encode hwf
  rw [runCmd, wait, cmd, wr, hostWrite_cmd _ hs.busy, issue_of_decode_ok hs.err hd]
  exact engineTurn_of_decode rfl hd

/-- A success without a pending error shows `DONE` alone (10_state.md R45). -/
theorem statusWord_succeed {s : State} (herr : s.err = false) (hcode : s.errcode = 0) :
    statusWord s.succeed = 0x00000002#32 := by
  simp [statusWord, herr, hcode, bit]

/-- `WRBIG FB, a`, `RUN modinv`: the block is ready again, and `FR` holds the inverse of a (41_modular_inverse.md R151). -/
theorem invertScript {s : State} {a : Big} (hs : Ready s) (ha : a < s.cp) (hg : Nat.gcd a.toNat s.cp.toNat = 1) :
    ∃ t, runCmd .modinv (wrbig .fb a s) = .next t ∧ Ready t ∧ t.cp = s.cp ∧ t.fr < s.cp ∧
      a.toNat * t.fr.toNat ≡ 1 [MOD s.cp.toNat] := by
  obtain ⟨r, hr, hmod, hexec⟩ :=
    exec_modinv_of_gcd_eq_one (s := (s.setBig .fb a).accept (encode .modinv)) ha hg
  rw [wrbig_eq_setBig a hs.busy rfl, runCmd_eq_exec (hs.setBig .fb a) rfl]
  refine ⟨_, hexec, .succeed hs.err hs.errcode, rfl, ofNat_lt hr, ?_⟩
  rw [State.succeed_fr, State.writeFR_fr, toNat_ofNat_of_lt hr]
  exact hmod

/-- `WRBIG FA, a`, `WRBIG FB, b`, `RUN modmul`: `FR` holds the reduced product, and `STATUS` shows a success (40_field_arithmetic.md R133). -/
theorem multiplyScript {s : State} {a b : Big} (hs : Ready s) (ha : a < s.cp) (hb : b < s.cp) :
    ∃ t, runCmd .modmul (wrbig .fb b (wrbig .fa a s)) = .next t ∧
      t.fr = BitVec.ofNat 192 (a.toNat * b.toNat % s.cp.toNat) ∧ rd 0x004 t = 0x00000002#32 := by
  have hexec := exec_modmul (s := ((s.setBig .fa a).setBig .fb b).accept (encode .modmul)) ha hb
  have hs' := hs.setBig .fa a
  rw [wrbig_eq_setBig a hs.busy rfl, wrbig_eq_setBig b hs'.busy rfl, runCmd_eq_exec (hs'.setBig .fb b) rfl]
  exact ⟨_, hexec, rfl, statusWord_succeed hs.err hs.errcode⟩

/-! ### The obligations -/

/-- Settles O34: the loop's last t, reduced, is the inverse, and coprimality cancels b from two of them. -/
theorem finvIsTheUniqueInverse : Obligations.FinvIsTheUniqueInverse := by
  intro b p hb
  refine ⟨finv_of_gcd_ne_one, fun hg => ?_⟩
  obtain ⟨r, hok, hr, hmod⟩ := finv_of_gcd_eq_one (Nat.zero_lt_of_lt hb) hg
  exact ⟨r, hok, hr, hmod, fun r' hr' hmod' => inverse_unique hg hr hr' hmod hmod'⟩

/-- Settles O35: the range check looks at `FB` alone, and `finv` then decides between the inverse and NoModularInverse. -/
theorem modinvInverts : Obligations.ModinvInverts := by
  intro s
  refine ⟨exec_modinv_of_gcd_eq_one, fun hb hg => ?_,
    fun h => complete_checked_outOfRange (mt List.forall_mem_singleton.mp h) _⟩
  rw [exec_modinv hb, finv_of_gcd_ne_one hg]; rfl

/-- Settles O36: the quotient is `FA` times the inverse of `FB`, and without that inverse the command fails whatever residue `FA` holds. -/
theorem moddivDivides : Obligations.ModdivDivides := by
  intro s
  refine ⟨fun ha hb hg => ?_, fun ha hb hg => ?_,
    fun h => complete_checked_outOfRange (mt (forall_mem_operands_iff s).mp h) _⟩
  · obtain ⟨i, hok, hi, hmod⟩ := finv_of_gcd_eq_one (pos_of_lt hb) hg
    refine ⟨i, _, hi, hmod, rfl, quotient_mul_divisor (BitVec.lt_def.mp ha) hmod, ?_⟩
    rw [exec_moddiv ha hb, fdiv_of_finv_ok _ hok]; rfl
  · rw [exec_moddiv ha hb, fdiv_of_finv_error _ (finv_of_gcd_ne_one hg)]; rfl

/-- Settles O37: the first run leaves the inverse of a in `FR`, the second multiplies a by it, and the product reduces to 1 since the modulus is at least 2. -/
theorem inverseScriptEndsInOne : Obligations.InverseScriptEndsInOne := by
  intro s a hstatus hbusy herr hcp ha hg
  obtain ⟨-, -, hcode⟩ := hstatus
  obtain ⟨t, hinv, ht, hcpt, hfr, hmod⟩ := invertScript ⟨hbusy, herr, hcode herr⟩ ha hg
  rw [← hcpt] at ha hfr hmod hcp
  obtain ⟨u, hmul, hfru, hword⟩ := multiplyScript ht ha hfr
  refine ⟨t, u, hinv, ?_, ?_, hword⟩
  · rw [rdbig_eq_big]; exact hmul
  · rw [rdbig_eq_big]
    exact hfru.trans (congrArg _ (Nat.mod_eq_of_modEq hmod hcp))

end Sys2Proof.Machine
end

section
/-! The statements of 42_group_law.md: the range check of the point commands (R166), PADD and PDBL by the formulas of R167 and R168, and the group of the curve's points that they compute in over an odd prime (R174). -/

namespace Sys2Proof.Machine

open Sys2Proof.Stated

/-! ### The point registers -/

/-- A tag and coordinates pass the range check exactly when the point value they hold lies in the field (42_group_law.md R166). -/
theorem pointInRange_iff_inField (cp : Big) (inf : Bool) (x y : Big) :
    pointInRange cp inf x y = true ↔ InField cp.toNat (pointOf inf x y) := by
  rw [pointInRange_iff]
  cases inf with
  | false => exact imp_iff_right rfl
  | true => exact iff_of_true nofun trivial

theorem rangeP_iff_inField (s : State) : s.rangeP = true ↔ s.ca < s.cp ∧ InField s.cp.toNat s.pointP := by
  rw [State.rangeP, Bool.and_eq_true, pointInRange_iff_inField, inRange_iff, List.forall_mem_singleton]; rfl

theorem rangePQ_iff_inField (s : State) : s.rangePQ = true ↔ s.rangeP = true ∧ InField s.cp.toNat s.pointQ := by
  rw [State.rangePQ, Bool.and_eq_true, pointInRange_iff_inField]; rfl

theorem pointP_of_pinf {s : State} (h : s.pinf = true) : s.pointP = .infinity := by rw [State.pointP, h]; rfl

theorem pointP_of_not_pinf {s : State} (h : s.pinf = false) : s.pointP = .affine s.px.toNat s.py.toNat := by
  rw [State.pointP, h]; rfl

theorem pointQ_of_qinf {s : State} (h : s.qinf = true) : s.pointQ = .infinity := by rw [State.pointQ, h]; rfl

theorem pointQ_of_not_qinf {s : State} (h : s.qinf = false) : s.pointQ = .affine s.qx.toNat s.qy.toNat := by
  rw [State.pointQ, h]; rfl

/-- An operand that is the result is copied to R as it is (42_group_law.md R169). -/
theorem writeR_affine_toNat (s : State) (x y : Big) :
    s.writeR (.affine x.toNat y.toNat) = { s with rinf := false, rx := x, ry := y } := by
  rw [State.writeR, BitVec.ofNat_toNat, BitVec.ofNat_toNat, BitVec.setWidth_eq, BitVec.setWidth_eq]

/-! ### The commands in range and out of range -/

/-- A range check that does not pass ends the command with OperandRange, whatever it would have computed (42_group_law.md R166). -/
theorem complete_checked_of_not {s : State} {ok : Bool} (h : ¬ ok = true) (r : Except ErrKind State) :
    complete s (checked ok r) = .next (s.failWith .operandRange) := by
  rw [Bool.eq_false_iff.mpr h]; rfl

theorem exec_padd_of_ok {s : State} {v : Point} (h : s.rangePQ = true)
    (hv : padd s.pointP s.pointQ s.ca.toNat s.cp.toNat = .ok v) : exec .padd s = .next (s.writeR v).succeed := by
  rw [exec_padd h, hv]; rfl

theorem exec_padd_of_error {s : State} {e : ErrKind} (h : s.rangePQ = true)
    (he : padd s.pointP s.pointQ s.ca.toNat s.cp.toNat = .error e) : exec .padd s = .next (s.failWith e) := by
  rw [exec_padd h, he]; rfl

theorem exec_pdbl_of_ok {s : State} {v : Point} (h : s.rangeP = true)
    (hv : pdbl s.pointP s.ca.toNat s.cp.toNat = .ok v) : exec .pdbl s = .next (s.writeR v).succeed := by
  rw [exec_pdbl h, hv]; rfl

theorem exec_pdbl_of_error {s : State} {e : ErrKind} (h : s.rangeP = true)
    (he : pdbl s.pointP s.ca.toNat s.cp.toNat = .error e) : exec .pdbl s = .next (s.failWith e) := by
  rw [exec_pdbl h, he]; rfl

/-- A point computation that ends a command without OperandRange: it gives a point, and `ERR` keeps its value, or it fails with code 3 (60_exceptions.md R251). -/
theorem complete_tryWriteR_err_or_code {s : State} {r : Except ErrKind Point} (herr : s.err = false)
    (h : (∃ v, r = .ok v ∧ InField s.cp.toNat v) ∨ r = .error .noModularInverse) :
    ∃ t, complete s (s.tryWriteR r) = .next t ∧ (t.err = false ∨ t.errcode = 3) := by
  obtain ⟨v, rfl, -⟩ | rfl := h
  · exact ⟨_, rfl, .inl ((s.writeR_err v).trans herr)⟩
  · exact ⟨_, rfl, .inr rfl⟩

/-! ### The formulas -/

/-- Doubling is the tangent construction once its slope is known (42_group_law.md R167). -/
theorem pdbl_of_slope {x y a p sl : Nat} (hy : y ≠ 0) (h : fdiv ((3 * x * x + a) % p) (2 * y % p) p = .ok sl) :
    pdbl (.affine x y) a p = .ok (chordPoint sl x y (2 * x) p) := by
  rw [pdbl_affine, if_neg hy, h]

theorem pdbl_of_slope_error {x y a p : Nat} {e : ErrKind} (hy : y ≠ 0)
    (h : fdiv ((3 * x * x + a) % p) (2 * y % p) p = .error e) : pdbl (.affine x y) a p = .error e := by
  rw [pdbl_affine, if_neg hy, h]

/-- Addition is the chord construction once its slope is known (42_group_law.md R168). -/
theorem padd_of_slope {x1 y1 x2 y2 a p sl : Nat} (hx : x1 ≠ x2) (h : fdiv (fsub y1 y2 p) (fsub x1 x2 p) p = .ok sl) :
    padd (.affine x1 y1) (.affine x2 y2) a p = .ok (chordPoint sl x1 y1 (x1 + x2) p) := by
  rw [padd_affine, if_neg hx, h]

theorem padd_of_slope_error {x1 y1 x2 y2 a p : Nat} {e : ErrKind} (hx : x1 ≠ x2)
    (h : fdiv (fsub y1 y2 p) (fsub x1 x2 p) p = .error e) : padd (.affine x1 y1) (.affine x2 y2) a p = .error e := by
  rw [padd_affine, if_neg hx, h]

theorem padd_infinity_left (v : Point) (a p : Nat) : padd .infinity v a p = .ok v := rfl

theorem padd_infinity_right (v : Point) (a p : Nat) : padd v .infinity a p = .ok v := by cases v <;> rfl

/-- Equal points are doubled (42_group_law.md R168). -/
theorem padd_self (v : Point) (a p : Nat) : padd v v a p = pdbl v a p := by
  cases v with
  | infinity => rfl
  | affine x y => rw [padd_affine, if_pos rfl, if_pos rfl]

/-- Opposite ordinates: P = −Q (42_group_law.md R168). -/
theorem padd_of_opposite {x y1 y2 a p : Nat} (hy : y1 ≠ y2) (h : (y1 + y2) % p = 0) :
    padd (.affine x y1) (.affine x y2) a p = .ok .infinity := by
  rw [padd_affine, if_pos rfl, if_neg hy, if_pos h]

/-- One abscissa with unrelated ordinates (42_group_law.md R171). -/
theorem padd_of_unrelated {x y1 y2 a p : Nat} (hy : y1 ≠ y2) (h : (y1 + y2) % p ≠ 0) :
    padd (.affine x y1) (.affine x y2) a p = .error .noModularInverse := by
  rw [padd_affine, if_pos rfl, if_neg hy, if_neg h]

/-- Two different residues add to a multiple of the modulus exactly when their sum is the modulus. -/
theorem add_mod_eq_zero_iff {a b p : Nat} (ha : a < p) (hb : b < p) (hne : a ≠ b) : (a + b) % p = 0 ↔ a + b = p := by
  refine ⟨fun h => ?_, fun h => by rw [h, Nat.mod_self]⟩
  exact Nat.eq_of_dvd_of_lt_two_mul (by omega) (Nat.dvd_of_mod_eq_zero h) (by omega)

theorem fsub_modEq (a b : Nat) {p : Nat} (hp : 0 < p) : (fsub a b p : Int) ≡ a - b [ZMOD p] := by
  rw [fsub, imod_cast _ hp]; exact Int.mod_modEq _ _

/-- A divisor congruent to d, and an inverse of d: the quotient is the product with that inverse (41_modular_inverse.md R150, R152). -/
theorem fdiv_of_inverse (a : Nat) {b p i : Nat} {d : Int} (hi : i < p) (hb : (b : Int) ≡ d [ZMOD p])
    (h : d * i ≡ 1 [ZMOD p]) : fdiv a b p = .ok (fmul a i p) := by
  have hmod : b * i ≡ 1 [MOD p] := Int.natCast_modEq_iff.mp (by push_cast; exact (hb.mul_right i).trans h)
  have hg := Nat.coprime_of_mul_modEq_one i hmod
  obtain ⟨r, hok, hr, hrmod⟩ := finv_of_gcd_eq_one (Nat.zero_lt_of_lt hi) hg
  rw [fdiv_of_finv_ok a hok, inverse_unique hg hr hi hrmod hmod]

/-- A divisor congruent to d, and no inverse of d (41_modular_inverse.md R152). -/
theorem fdiv_of_gcd_ne_one (a : Nat) {b p : Nat} {d : Int} (hb : (b : Int) ≡ d [ZMOD p]) (hg : Int.gcd d p ≠ 1) :
    fdiv a b p = .error .noModularInverse := by
  have hgcd : Nat.gcd b p = Int.gcd d p := by
    rw [← Int.gcd_natCast_natCast, ← Int.gcd_emod, hb, Int.gcd_emod]
  exact fdiv_of_finv_error a (finv_of_gcd_ne_one (hgcd ▸ hg))

/-- A product with a factor congruent to m, as an integer residue (40_field_arithmetic.md R133). -/
theorem fmul_cast {a p : Nat} {m : Int} (b : Nat) (ha : (a : Int) ≡ m [ZMOD p]) : (fmul a b p : Int) = m * b % p := by
  rw [fmul, Int.natCast_mod, Nat.cast_mul]; exact ha.mul_right b

/-- The point on a line, written to R, is the pair of `lineResult` (42_group_law.md R167, R168). -/
theorem writeR_chordPoint (s : State) (sl x1 y1 xsum : Nat) {p : Nat} (hp : 0 < p) :
    s.writeR (chordPoint sl x1 y1 xsum p) =
      { s with
        rinf := false
        rx := BitVec.ofInt 192 (lineResult sl x1 y1 xsum p).1
        ry := BitVec.ofInt 192 (lineResult sl x1 y1 xsum p).2 } := by
  simp only [chordPoint, lineResult, State.writeR, ← BitVec.ofInt_natCast, imod_cast _ hp]

/-! ### The formulas in the group of the curve -/

/-- A value that stands for a point has its coordinates in the field. -/
theorem inField_of_represents {s : State} {v : Point} {X : (curveOf s).Point} (h : Represents s v X) :
    InField s.cp.toNat v := by
  cases v with
  | infinity => trivial
  | affine x y => obtain ⟨hx, hy, -⟩ := h; exact ⟨hx, hy⟩

theorem imod_zmod (a : Int) {p : Nat} (hp : 0 < p) : (imod a p : ZMod p) = a := by
  rw [← Int.cast_natCast, imod_cast a hp, ZMod.intCast_mod]

theorem fsub_zmod (a b : Nat) {p : Nat} (hp : 0 < p) : (fsub a b p : ZMod p) = a - b := by
  rw [fsub, imod_zmod _ hp]; push_cast; rfl

/-- Over a prime, `fdiv` by a value that is not 0 is the division of the field (41_modular_inverse.md R152). -/
theorem fdiv_zmod (a : Nat) {b p : Nat} [Fact p.Prime] (hb : (b : ZMod p) ≠ 0) :
    ∃ sl, fdiv a b p = .ok sl ∧ (sl : ZMod p) = a / b := by
  have hg : Nat.gcd b p = 1 := (ZMod.isUnit_iff_coprime b p).mp hb.isUnit
  obtain ⟨i, hok, -, hmod⟩ := finv_of_gcd_eq_one (Fact.out : p.Prime).pos hg
  have hinv : (b : ZMod p) * i = 1 := by exact_mod_cast (ZMod.natCast_eq_natCast_iff _ _ _).mpr hmod
  refine ⟨_, fdiv_of_finv_ok a hok, ?_⟩
  rw [fmul, ZMod.natCast_mod, Nat.cast_mul, eq_div_iff hb, mul_assoc, mul_comm (i : ZMod p), hinv, mul_one]

/-- Over an odd prime, twice a residue that is not 0 is not 0, so the tangent's divisor has an inverse (42_group_law.md R167). -/
theorem two_mul_ne_zero_of_odd {p y : Nat} [Fact p.Prime] (hodd : p ≠ 2) (hlt : y < p) (hy : y ≠ 0) :
    ((2 * y : Nat) : ZMod p) ≠ 0 := by
  have hp : p.Prime := Fact.out
  rw [Ne, ZMod.natCast_eq_zero_iff, hp.dvd_mul, not_or]
  exact ⟨fun h => hodd ((Nat.prime_dvd_prime_iff_eq hp Nat.prime_two).mp h), Nat.not_dvd_of_pos_of_lt (by omega) hlt⟩

/-- Residues with the same class modulo p are equal. -/
theorem eq_of_natCast_zmod {p x y : Nat} (hx : x < p) (hy : y < p) (h : (x : ZMod p) = y) : x = y :=
  ((ZMod.natCast_eq_natCast_iff _ _ _).mp h).eq_of_lt_of_lt hx hy

theorem negY_curveOf (s : State) (x y : ZMod s.cp.toNat) : (curveOf s).negY x y = -y := by
  simp [curveOf, WeierstrassCurve.Affine.negY]

section

variable {s : State}

/-- Coordinates in the field stand for the point of the curve that has their classes. -/
theorem represents_some {x y : Nat} {X Y : ZMod s.cp.toNat} {h : (curveOf s).Nonsingular X Y} (hx : x < s.cp.toNat)
    (hy : y < s.cp.toNat) (hX : (x : ZMod s.cp.toNat) = X) (hY : (y : ZMod s.cp.toNat) = Y) :
    Represents s (.affine x y) (WeierstrassCurve.Affine.Point.some X Y h) := by
  subst hX hY
  exact ⟨hx, hy, h, rfl⟩

variable [Fact (Nat.Prime s.cp.toNat)]

/-- The slope of the tangent of the curve is that of 42_group_law.md R167. -/
theorem slope_tangent {x y : ZMod s.cp.toNat} (hy : y ≠ -y) :
    (curveOf s).slope x x y y = (3 * x * x + s.ca.toNat) / (2 * y) := by
  rw [WeierstrassCurve.Affine.slope_of_Y_ne rfl (by rwa [negY_curveOf]), negY_curveOf, sub_neg_eq_add, ← two_mul]
  simp only [curveOf]
  ring

/-- The line through two points of the curve that are not opposite meets it again in the opposite of their sum, so `chordPoint` on that line's slope stands for the sum (42_group_law.md R167, R168). -/
theorem chordPoint_represents {sl x1 y1 x2 y2 xsum : Nat} {h1 : (curveOf s).Nonsingular x1 y1}
    {h2 : (curveOf s).Nonsingular x2 y2} (hxsum : xsum = x1 + x2)
    (hne : ¬ ((x1 : ZMod s.cp.toNat) = x2 ∧ (y1 : ZMod s.cp.toNat) = (curveOf s).negY x2 y2))
    (hsl : (sl : ZMod s.cp.toNat) = (curveOf s).slope x1 x2 y1 y2) :
    Represents s (chordPoint sl x1 y1 xsum s.cp.toNat)
      (WeierstrassCurve.Affine.Point.some _ _ h1 + WeierstrassCurve.Affine.Point.some _ _ h2) := by
  have hp : 0 < s.cp.toNat := (Fact.out : s.cp.toNat.Prime).pos
  have hX : (imod ((sl : Int) * sl - xsum) s.cp.toNat : ZMod s.cp.toNat) =
      (curveOf s).addX x1 x2 ((curveOf s).slope x1 x2 y1 y2) := by
    rw [imod_zmod _ hp, ← hsl, hxsum]
    simp only [WeierstrassCurve.Affine.addX, curveOf]
    push_cast
    ring
  rw [WeierstrassCurve.Affine.Point.add_some hne]
  refine represents_some (imod_lt _ hp) (imod_lt _ hp) hX ?_
  rw [imod_zmod _ hp, WeierstrassCurve.Affine.addY, negY_curveOf, WeierstrassCurve.Affine.negAddY, ← hX, ← hsl]
  push_cast
  ring

/-- Over an odd prime, `pdbl` succeeds on a point of the curve, with the point's double (42_group_law.md R167, R174). -/
theorem pdbl_represents (hodd : s.cp.toNat ≠ 2) {v : Point} {X : (curveOf s).Point} (hX : Represents s v X) :
    ∃ w, pdbl v s.ca.toNat s.cp.toNat = .ok w ∧ Represents s w (X + X) := by
  cases v with
  | infinity =>
    obtain rfl : X = 0 := hX
    exact ⟨.infinity, rfl, add_zero 0⟩
  | affine x y =>
    obtain ⟨-, hy, hns, rfl⟩ := hX
    by_cases hy0 : y = 0
    · subst hy0
      refine ⟨.infinity, rfl, WeierstrassCurve.Affine.Point.add_self_of_Y_eq ?_⟩
      rw [negY_curveOf, Nat.cast_zero, neg_zero]
    · have h2y := two_mul_ne_zero_of_odd hodd hy hy0
      have hneg : (y : ZMod s.cp.toNat) ≠ -y := fun h => h2y (by push_cast; linear_combination h)
      rw [← ZMod.natCast_mod] at h2y
      obtain ⟨sl, hdiv, hsl⟩ := fdiv_zmod ((3 * x * x + s.ca.toNat) % s.cp.toNat) h2y
      have hne : (y : ZMod s.cp.toNat) ≠ (curveOf s).negY x y := by rwa [negY_curveOf]
      refine ⟨_, pdbl_of_slope hy0 hdiv, chordPoint_represents (two_mul x) (fun h => hne h.2) ?_⟩
      rw [hsl, slope_tangent hneg, ZMod.natCast_mod, ZMod.natCast_mod]
      push_cast
      rfl

/-- Two points of the curve with one abscissa and different ordinates are opposite, so the case of 42_group_law.md R171 cannot arise on the curve. -/
theorem opposite_of_same_abscissa {x y1 y2 : Nat} (h1 : (curveOf s).Nonsingular x y1) (h2 : (curveOf s).Nonsingular x y2)
    (hy1 : y1 < s.cp.toNat) (hy2 : y2 < s.cp.toNat) (hne : y1 ≠ y2) :
    (y1 : ZMod s.cp.toNat) = (curveOf s).negY x y2 ∧ (y1 + y2) % s.cp.toNat = 0 := by
  have hopp : (y1 : ZMod s.cp.toNat) = (curveOf s).negY x y2 :=
    (WeierstrassCurve.Affine.Y_eq_of_X_eq h1.1 h2.1 rfl).resolve_left (mt (eq_of_natCast_zmod hy1 hy2) hne)
  refine ⟨hopp, ?_⟩
  rw [negY_curveOf] at hopp
  rw [← Nat.dvd_iff_mod_eq_zero, ← ZMod.natCast_eq_zero_iff, Nat.cast_add, hopp, neg_add_cancel]

/-- Over an odd prime, `padd` succeeds on two points of the curve, with their sum (42_group_law.md R168, R174). -/
theorem padd_represents (hodd : s.cp.toNat ≠ 2) {v w : Point} {X Y : (curveOf s).Point} (hX : Represents s v X)
    (hY : Represents s w Y) : ∃ r, padd v w s.ca.toNat s.cp.toNat = .ok r ∧ Represents s r (X + Y) := by
  have hp : 0 < s.cp.toNat := (Fact.out : s.cp.toNat.Prime).pos
  cases v with
  | infinity =>
    obtain rfl : X = 0 := hX
    exact ⟨w, padd_infinity_left _ _ _, by rwa [zero_add]⟩
  | affine x1 y1 => cases w with
    | infinity =>
      obtain rfl : Y = 0 := hY
      exact ⟨.affine x1 y1, padd_infinity_right _ _ _, by rwa [add_zero]⟩
    | affine x2 y2 =>
      obtain ⟨hx1, hy1, hns1, rfl⟩ := id hX
      obtain ⟨hx2, hy2, hns2, rfl⟩ := hY
      by_cases hx : x1 = x2
      · subst hx
        by_cases hy : y1 = y2
        · subst hy
          rw [padd_self]
          exact pdbl_represents hodd hX
        · obtain ⟨hopp, hsum⟩ := opposite_of_same_abscissa hns1 hns2 hy1 hy2 hy
          exact ⟨.infinity, padd_of_opposite hy hsum, WeierstrassCurve.Affine.Point.add_of_Y_eq rfl hopp⟩
      · have hX12 : (x1 : ZMod s.cp.toNat) ≠ x2 := mt (eq_of_natCast_zmod hx1 hx2) hx
        obtain ⟨sl, hdiv, hsl⟩ :=
          fdiv_zmod (fsub y1 y2 s.cp.toNat) (b := fsub x1 x2 s.cp.toNat) (by rwa [fsub_zmod _ _ hp, sub_ne_zero])
        refine ⟨_, padd_of_slope hx hdiv, chordPoint_represents rfl (fun h => hX12 h.1) ?_⟩
        rw [hsl, fsub_zmod _ _ hp, fsub_zmod _ _ hp, WeierstrassCurve.Affine.slope_of_X_ne hX12]

end

/-! ### The obligations -/

/-- Settles O38: the check decides OperandRange before anything is computed, and after it the formulas fail with NoModularInverse alone. -/
theorem pointRangeCheck : Obligations.PointRangeCheck := by
  intro s
  refine ⟨fun h => ?_, fun h => ?_, fun herr hca hP => ?_⟩
  · have hout := mt (rangeP_iff s).mp h
    exact ⟨complete_checked_of_not hout _, complete_checked_of_not hout _⟩
  · exact complete_checked_of_not (by rwa [rangePQ_iff, and_assoc]) _
  · have hin : s.rangeP = true := (rangeP_iff s).mpr ⟨hca, hP⟩
    have hp := rangeP_pos hin
    refine ⟨?_, ?_, fun hQ => ?_⟩
    · rw [exec_pdbl hin]; exact complete_tryWriteR_err_or_code herr (pdbl_cases hp)
    · rw [exec_smul hin]; exact complete_tryWriteR_err_or_code herr (smul_cases _ hp (rangeP_inField hin))
    · have hinPQ : s.rangePQ = true := (rangePQ_iff s).mpr ⟨⟨hca, hP⟩, hQ⟩
      rw [exec_padd hinPQ]
      exact complete_tryWriteR_err_or_code herr (padd_cases hp (rangeP_inField hin) (rangePQ_inField hinPQ))

/-- Settles O39: the range check skips the coordinates beside a set tag, and `padd` returns the other point before any formula. -/
theorem paddIdentityLaw : Obligations.PaddIdentityLaw := by
  intro s hca
  refine ⟨fun hp hq => ?_, fun hp hq hx hy => ?_, fun hp hq hx hy => ?_⟩
  · have hin : s.rangePQ = true := (rangePQ_iff s).mpr ⟨⟨hca, by simp [hp]⟩, by simp [hq]⟩
    exact exec_padd_of_ok hin (v := .infinity) (by rw [pointP_of_pinf hp, pointQ_of_qinf hq]; rfl)
  · have hin : s.rangePQ = true := (rangePQ_iff s).mpr ⟨⟨hca, by simp [hp]⟩, fun _ => ⟨hx, hy⟩⟩
    rw [← writeR_affine_toNat]
    exact exec_padd_of_ok hin (by rw [pointP_of_pinf hp, pointQ_of_not_qinf hq, padd_infinity_left])
  · have hin : s.rangePQ = true := (rangePQ_iff s).mpr ⟨⟨hca, fun _ => ⟨hx, hy⟩⟩, by simp [hq]⟩
    rw [← writeR_affine_toNat]
    exact exec_padd_of_ok hin (by rw [pointP_of_not_pinf hp, pointQ_of_qinf hq, padd_infinity_right])

/-- Settles O40: with one abscissa `padd` compares the ordinates, and the sum of two different residues is 0 modulo `CP` only when it is `CP`. -/
theorem paddEqualAbscissas : Obligations.PaddEqualAbscissas := by
  intro s hca hp hq hpx hpy hqy hqx
  have hP : s.rangeP = true := (rangeP_iff s).mpr ⟨hca, fun _ => ⟨hpx, hpy⟩⟩
  have hPQ : s.rangePQ = true := (rangePQ_iff s).mpr ⟨(rangeP_iff s).mp hP, fun _ => ⟨hqx ▸ hpx, hqy⟩⟩
  have hpointQ : s.pointQ = .affine s.px.toNat s.qy.toNat := by rw [pointQ_of_not_qinf hq, hqx]
  refine ⟨fun hy => ?_, fun hne hsum => ?_, fun hne hsum => ?_⟩
  · rw [exec_padd hPQ, exec_pdbl hP, hpointQ, ← hy, ← pointP_of_not_pinf hp, padd_self]
  all_goals
    have hy : s.py.toNat ≠ s.qy.toNat := BitVec.toNat_inj.not.mpr hne
    have hiff := add_mod_eq_zero_iff (BitVec.lt_def.mp hpy) (BitVec.lt_def.mp hqy) hy
  · refine exec_padd_of_ok hPQ (v := .infinity) ?_
    rw [pointP_of_not_pinf hp, hpointQ, padd_of_opposite hy (hiff.mpr hsum)]
  · refine exec_padd_of_error hPQ ?_
    rw [pointP_of_not_pinf hp, hpointQ, padd_of_unrelated hy (hiff.not.mpr hsum)]

/-- Settles O41: the given i is the inverse `fdiv` finds, and without one the divisor P.x − Q.x shares a factor with `CP`. -/
theorem paddChord : Obligations.PaddChord := by
  intro s hca hp hq hpx hpy hqx hqy hne
  have hcp := pos_of_lt hca
  have hPQ : s.rangePQ = true := (rangePQ_iff s).mpr ⟨⟨hca, fun _ => ⟨hpx, hpy⟩⟩, fun _ => ⟨hqx, hqy⟩⟩
  have hx : s.px.toNat ≠ s.qx.toNat := BitVec.toNat_inj.not.mpr hne
  have hdiff := fsub_modEq s.px.toNat s.qx.toNat hcp
  refine ⟨fun i hi hinv sl r hsl hr => ?_, fun hg => ?_⟩
  · have hdiv := fdiv_of_inverse (fsub s.py.toNat s.qy.toNat s.cp.toNat) hi hdiff hinv
    rw [← fmul_cast i (fsub_modEq s.py.toNat s.qy.toNat hcp)] at hsl
    rw [hr, hsl, ← Nat.cast_add, ← writeR_chordPoint s _ _ _ _ hcp]
    refine exec_padd_of_ok hPQ ?_
    rw [pointP_of_not_pinf hp, pointQ_of_not_qinf hq, padd_of_slope hx hdiv]
  · refine exec_padd_of_error hPQ ?_
    rw [pointP_of_not_pinf hp, pointQ_of_not_qinf hq, padd_of_slope_error hx (fdiv_of_gcd_ne_one _ hdiff hg)]

/-- Settles O42: Infinity and y = 0 are answered before the formulas; otherwise the given i is the inverse `fdiv` finds, and without one the divisor 2·P.y shares a factor with `CP`. -/
theorem pdblTangent : Obligations.PdblTangent := by
  intro s hca
  have hcp := pos_of_lt hca
  refine ⟨fun hp => ?_, fun hp hpx hpy hy => ?_, fun hp hpx hpy hne => ?_⟩
  · exact exec_pdbl_of_ok ((rangeP_iff s).mpr ⟨hca, by simp [hp]⟩) (v := .infinity) (by rw [pointP_of_pinf hp]; rfl)
  · refine exec_pdbl_of_ok ((rangeP_iff s).mpr ⟨hca, fun _ => ⟨hpx, hpy⟩⟩) (v := .infinity) ?_
    rw [pointP_of_not_pinf hp, hy]; rfl
  · have hP : s.rangeP = true := (rangeP_iff s).mpr ⟨hca, fun _ => ⟨hpx, hpy⟩⟩
    have hy : s.py.toNat ≠ 0 := BitVec.toNat_inj.not.mpr hne
    have hden : ((2 * s.py.toNat % s.cp.toNat : Nat) : Int) ≡ (2 * s.py.toNat : Nat) [ZMOD s.cp.toNat] :=
      Int.natCast_modEq_iff.mpr (Nat.mod_modEq _ _)
    refine ⟨fun i hi hinv sl r hsl hr => ?_, fun hg => ?_⟩
    · have hdiv := fdiv_of_inverse ((3 * s.px.toNat * s.px.toNat + s.ca.toNat) % s.cp.toNat) hi hden
        (by exact_mod_cast Int.natCast_modEq_iff.mpr hinv)
      rw [← fmul_cast i (Int.natCast_modEq_iff.mpr (Nat.mod_modEq _ _))] at hsl
      have hxsum : (2 * s.px.toNat : Int) = (2 * s.px.toNat : Nat) := (Nat.cast_mul 2 _).symm
      rw [hr, hsl, hxsum, ← writeR_chordPoint s _ _ _ _ hcp]
      refine exec_pdbl_of_ok hP ?_
      rw [pointP_of_not_pinf hp, pdbl_of_slope hy hdiv]
    · refine exec_pdbl_of_error hP ?_
      rw [pointP_of_not_pinf hp]
      exact pdbl_of_slope_error hy (fdiv_of_gcd_ne_one _ hden (by rwa [Int.gcd_natCast_natCast]))

/-- Settles O45: points of the curve pass the range check, and `padd` answers their sum. -/
theorem paddIsTheGroupLaw : Obligations.PaddIsTheGroupLaw := by
  intro s _ hodd hca X Y hX hY
  obtain ⟨v, hv, hsum⟩ := padd_represents hodd hX hY
  have hP : s.rangeP = true := (rangeP_iff_inField s).mpr ⟨hca, inField_of_represents hX⟩
  exact ⟨v, hsum, exec_padd_of_ok ((rangePQ_iff_inField s).mpr ⟨hP, inField_of_represents hY⟩) hv⟩

/-- Settles O46: a point of the curve passes the range check, and `pdbl` answers its double. -/
theorem pdblIsTheGroupDoubling : Obligations.PdblIsTheGroupDoubling := by
  intro s _ hodd hca X hX
  obtain ⟨v, hv, hsum⟩ := pdbl_represents hodd hX
  exact ⟨v, hsum, exec_pdbl_of_ok ((rangeP_iff_inField s).mpr ⟨hca, inField_of_represents hX⟩) hv⟩

end Sys2Proof.Machine
end

section
/-! The statements of 43_scalar_mult.md: the loop of `smul` iteration by iteration (R190, R195), SMUL (R191), and the multiple it computes in the group of the curve's points (R197). -/

namespace Sys2Proof.Machine

open Sys2Proof.Stated

/-! ### SMUL in range -/

theorem exec_smul_of_ok {s : State} {v : Point} (h : s.rangeP = true)
    (hv : smul s.pointP s.k.toNat s.ca.toNat s.cp.toNat = .ok v) : exec .smul s = .next (s.writeR v).succeed := by
  rw [exec_smul h, hv]; rfl

theorem exec_smul_of_error {s : State} {e : ErrKind} (h : s.rangeP = true)
    (he : smul s.pointP s.k.toNat s.ca.toNat s.cp.toNat = .error e) : exec .smul s = .next (s.failWith e) := by
  rw [exec_smul h, he]; rfl

/-! ### One iteration of the loop -/

section

variable {n idx k a p : Nat} {acc acc' run run' : Point}

/-- An iteration whose addition and doubling succeed goes on with their results (43_scalar_mult.md R190). -/
theorem smulLoop_succ_of_ok (hadd : (if bitOf k idx = 1 then padd acc run a p else .ok acc) = .ok acc')
    (hdbl : pdbl run a p = .ok run') : smulLoop (n + 1) idx acc run k a p = smulLoop n (idx + 1) acc' run' k a p := by
  rw [smulLoop, hadd]
  simp only [hdbl]

/-- A doubling that fails ends the loop, whatever the bit of k and in the last iteration too (43_scalar_mult.md R191, R195). -/
theorem smulLoop_succ_of_pdbl_error {e : ErrKind}
    (hadd : (if bitOf k idx = 1 then padd acc run a p else .ok acc) = .ok acc') (hdbl : pdbl run a p = .error e) :
    smulLoop (n + 1) idx acc run k a p = .error e := by
  rw [smulLoop, hadd]
  simp only [hdbl]

end

/-- The addition to an accumulator that is still the identity succeeds for every running point (43_scalar_mult.md R194). -/
theorem add_to_infinity (k idx a p : Nat) (run : Point) :
    (if bitOf k idx = 1 then padd .infinity run a p else .ok .infinity) =
      .ok (if bitOf k idx = 1 then run else .infinity) := by
  split
  · exact padd_infinity_left run a p
  · rfl

/-! ### Scalar multiplication without a curve -/

theorem bitlen_of_ne_zero {k : Nat} (hk : k ≠ 0) : bitlen k = Nat.log2 k + 1 := if_neg hk

theorem smul_zero_scalar (v : Point) (a p : Nat) : smul v 0 a p = .ok .infinity := rfl

theorem smulLoop_infinity (k a p n idx : Nat) : smulLoop n idx .infinity .infinity k a p = .ok .infinity := by
  induction n generalizing idx with
  | zero => rfl
  | succ n ih =>
    have hadd := add_to_infinity k idx a p .infinity
    rw [ite_self] at hadd
    rw [smulLoop_succ_of_ok hadd rfl, ih]

theorem smul_one_scalar {v w : Point} {a p : Nat} (h : pdbl v a p = .ok w) : smul v 1 a p = .ok v :=
  smulLoop_succ_of_ok (n := 0) (idx := 0) (k := 1) (padd_infinity_left v a p) h

/-- The first iteration doubles P itself, after an addition that cannot fail (43_scalar_mult.md R194, R195). -/
theorem smul_of_pdbl_error {v : Point} {k a p : Nat} {e : ErrKind} (hk : k ≠ 0) (h : pdbl v a p = .error e) :
    smul v k a p = .error e := by
  rw [smul, bitlen_of_ne_zero hk]
  exact smulLoop_succ_of_pdbl_error (add_to_infinity k 0 a p v) h

/-! ### Where the doubling of an affine point succeeds and where it fails -/

theorem pdbl_of_y_eq_zero (x a p : Nat) : pdbl (.affine x 0) a p = .ok .infinity := rfl

theorem pdbl_ok_of_gcd_eq_one {x y a p : Nat} (hp : 0 < p) (hy : y ≠ 0) (hg : Nat.gcd (2 * y) p = 1) :
    ∃ w, pdbl (.affine x y) a p = .ok w := by
  obtain ⟨i, hok, -, -⟩ := finv_of_gcd_eq_one hp ((Nat.mod_modEq (2 * y) p).gcd_eq.trans hg)
  exact ⟨_, pdbl_of_slope hy (fdiv_of_finv_ok _ hok)⟩

theorem pdbl_error_of_gcd_ne_one {x y a p : Nat} (hy : y ≠ 0) (hg : Nat.gcd (2 * y) p ≠ 1) :
    pdbl (.affine x y) a p = .error .noModularInverse := by
  have hmod : Nat.gcd (2 * y % p) p ≠ 1 := (Nat.mod_modEq (2 * y) p).gcd_eq.trans_ne hg
  exact pdbl_of_slope_error hy (fdiv_of_finv_error _ (finv_of_gcd_ne_one hmod))

/-! ### Scalar multiplication in the group of the curve -/

theorem bitOf_eq_zero_or_one (k idx : Nat) : bitOf k idx = 0 ∨ bitOf k idx = 1 := Nat.mod_two_eq_zero_or_one _

/-- The n + 1 bits of k from idx upward are bit idx and twice the n bits above it (00_scope.md R11). -/
theorem bits_succ (k idx n : Nat) :
    k / 2 ^ idx % 2 ^ (n + 1) = bitOf k idx + 2 * (k / 2 ^ (idx + 1) % 2 ^ n) := by
  rw [pow_succ' 2 n, Nat.mod_mul, Nat.div_div_eq_div_mul, ← pow_succ, bitOf]

section

variable {s : State}

/-- A point of the curve is held as one point value only. -/
theorem represents_unique {v w : Point} {X : (curveOf s).Point} (hv : Represents s v X) (hw : Represents s w X) :
    v = w := by
  cases v with
  | infinity =>
    obtain rfl : X = 0 := hv
    cases w with
    | infinity => rfl
    | affine x y => obtain ⟨-, -, _, h⟩ := hw; cases h
  | affine x y =>
    obtain ⟨hx, hy, _, rfl⟩ := hv
    cases w with
    | infinity => cases hw
    | affine x' y' =>
      obtain ⟨hx', hy', _, h⟩ := hw
      injection h with hX hY
      rw [eq_of_natCast_zmod hx hx' hX, eq_of_natCast_zmod hy hy' hY]

variable [Fact (Nat.Prime s.cp.toNat)] (hodd : s.cp.toNat ≠ 2)

include hodd

/-- The addition of an iteration adds the running point as often as the bit says (43_scalar_mult.md R190). -/
theorem addition_represents (k idx : Nat) {acc run : Point} {A X : (curveOf s).Point} (hA : Represents s acc A)
    (hX : Represents s run X) :
    ∃ v, (if bitOf k idx = 1 then padd acc run s.ca.toNat s.cp.toNat else .ok acc) = .ok v ∧
      Represents s v (A + bitOf k idx • X) := by
  obtain hbit | hbit := bitOf_eq_zero_or_one k idx
  · rw [hbit, zero_nsmul, add_zero]; exact ⟨acc, rfl, hA⟩
  · rw [hbit, one_nsmul, if_pos rfl]; exact padd_represents hodd hA hX

/-- THE LOOP'S INVARIANT: from accumulator A and running point X, n iterations from bit idx upward end in A plus the multiple of X by these n bits of k (43_scalar_mult.md R190). -/
theorem smulLoop_represents (k n idx : Nat) {acc run : Point} {A X : (curveOf s).Point} (hA : Represents s acc A)
    (hX : Represents s run X) :
    ∃ v, smulLoop n idx acc run k s.ca.toNat s.cp.toNat = .ok v ∧
      Represents s v (A + (k / 2 ^ idx % 2 ^ n) • X) := by
  induction n generalizing idx acc run A X with
  | zero => exact ⟨acc, rfl, by rwa [pow_zero, Nat.mod_one, zero_nsmul, add_zero]⟩
  | succ n ih =>
    obtain ⟨acc', hadd, hA'⟩ := addition_represents hodd k idx hA hX
    obtain ⟨run', hdbl, hX'⟩ := pdbl_represents hodd hX
    obtain ⟨v, hv, hsum⟩ := ih (idx + 1) hA' hX'
    refine ⟨v, (smulLoop_succ_of_ok hadd hdbl).trans hv, ?_⟩
    rwa [bits_succ, add_nsmul, ← add_assoc, mul_nsmul, two_nsmul]

/-- Over an odd prime, `smul` succeeds on a point of the curve, with its k-fold (43_scalar_mult.md R190). -/
theorem smul_represents (k : Nat) {v : Point} {X : (curveOf s).Point} (hX : Represents s v X) :
    ∃ w, smul v k s.ca.toNat s.cp.toNat = .ok w ∧ Represents s w (k • X) := by
  obtain ⟨w, hw, hmul⟩ := smulLoop_represents hodd k (bitlen k) 0 (acc := .infinity) (A := 0) rfl hX
  rw [pow_zero, Nat.div_one, Nat.mod_eq_of_lt (lt_two_pow_bitlen k), zero_add] at hmul
  exact ⟨w, hw, hmul⟩

end

/-! ### The obligations -/

/-- Settles O43: k = 0 has no iteration, the identity stays itself under both operations, and for k = 1 the one iteration copies P before it doubles it. -/
theorem smulSimpleCases : Obligations.SmulSimpleCases := by
  intro s hca hP
  have hin : s.rangeP = true := (rangeP_iff s).mpr ⟨hca, hP⟩
  refine ⟨fun hk => ?_, fun hp => ?_, fun hp hk hdbl => ?_⟩
  · exact exec_smul_of_ok hin (v := .infinity) (by rw [hk]; exact smul_zero_scalar _ _ _)
  · exact exec_smul_of_ok hin (v := .infinity) (by rw [pointP_of_pinf hp]; exact smulLoop_infinity _ _ _ _ _)
  · have hok : ∃ w, pdbl (.affine s.px.toNat s.py.toNat) s.ca.toNat s.cp.toNat = .ok w := by
      by_cases hy : s.py.toNat = 0
      · rw [hy]; exact ⟨_, pdbl_of_y_eq_zero _ _ _⟩
      · exact pdbl_ok_of_gcd_eq_one (pos_of_lt hca) hy (hdbl.resolve_left (mt (congrArg BitVec.toNat) hy))
    obtain ⟨w, hw⟩ := hok
    rw [← writeR_affine_toNat]
    exact exec_smul_of_ok hin (by rw [pointP_of_not_pinf hp, hk]; exact smul_one_scalar hw)

/-- Settles O44: the doubling that fails is that of the first iteration, which every k but 0 has. -/
theorem smulTrailingDoublingFails : Obligations.SmulTrailingDoublingFails := by
  intro s hca hp hpx hpy hy hk hg
  refine exec_smul_of_error ((rangeP_iff s).mpr ⟨hca, fun _ => ⟨hpx, hpy⟩⟩) ?_
  rw [pointP_of_not_pinf hp]
  exact smul_of_pdbl_error (BitVec.toNat_inj.not.mpr hk) (pdbl_error_of_gcd_ne_one (BitVec.toNat_inj.not.mpr hy) hg)

/-- Settles O47: a point of the curve passes the range check, and the loop's invariant over all bits of `K` gives the multiple. -/
theorem smulComputesTheMultiple : Obligations.SmulComputesTheMultiple := by
  intro s _ hodd hca X hX
  obtain ⟨v, hv, hmul⟩ := smul_represents hodd s.k.toNat hX
  exact ⟨v, hmul, exec_smul_of_ok ((rangeP_iff_inField s).mpr ⟨hca, inField_of_represents hX⟩) hv⟩

/-- Settles O48: both orders end in the multiple of G by dA·dB, which is held as one point value only. -/
theorem keyAgreement : Obligations.KeyAgreement := by
  intro s _ hodd _ g X hX dA dB
  obtain ⟨qA, hqA, hA⟩ := smul_represents hodd dA hX
  obtain ⟨qB, hqB, hB⟩ := smul_represents hodd dB hX
  obtain ⟨sA, hsA, hAB⟩ := smul_represents hodd dA hB
  obtain ⟨sB, hsB, hBA⟩ := smul_represents hodd dB hA
  rw [smul_comm] at hBA
  obtain rfl : sA = sB := represents_unique hAB hBA
  exact ⟨qA, qB, sA, hqA, hqB, hsA, hsB⟩

end Sys2Proof.Machine
end

section
/-! The statements of 44_curve_registry.md: the ROM's two rows (R205), and LDCURVE with a row (R206) and without one (R207). -/

namespace Sys2Proof.Machine

/-! ### The ROM -/

/-- Row 0's modulus is the sparse prime of secp192k1 (44_curve_registry.md R205). -/
theorem secp192k1_p : secp192k1.p = BitVec.ofNat 192 (2 ^ 192 - 2 ^ 32 - 2 ^ 12 - 2 ^ 8 - 2 ^ 7 - 2 ^ 6 - 2 ^ 3 - 1) := by
  decide

/-- Row 1's modulus is the sparse prime of secp192r1 (44_curve_registry.md R205). -/
theorem secp192r1_p : secp192r1.p = BitVec.ofNat 192 (2 ^ 192 - 2 ^ 64 - 1) := by decide

/-- Row 1's coefficient a is −3 in its field (44_curve_registry.md R205). -/
theorem secp192r1_a : secp192r1.a = BitVec.ofNat 192 (2 ^ 192 - 2 ^ 64 - 1 - 3) := by decide

/-- The ROM has two rows (20_memory.md R83). -/
theorem romRow_eq_none_iff (cid : Nat) : romRow cid = none ↔ cid ≠ 0 ∧ cid ≠ 1 := by
  match cid with
  | 0 | 1 | _ + 2 => simp [romRow]

/-! ### LDCURVE -/

theorem exec_ldcurve (cid : Nat) (s : State) : exec (.ldcurve cid) s = execLdcurve cid s := rfl

/-- LDCURVE of a row loads it, whatever the registers hold (44_curve_registry.md R206). -/
theorem exec_ldcurve_of_row {cid : Nat} {row : CurveRow} (h : romRow cid = some row) (s : State) :
    exec (.ldcurve cid) s = .next (s.loadRow row).succeed := by
  rw [exec_ldcurve, execLdcurve, h]; rfl

/-- LDCURVE without a row is error entry alone (44_curve_registry.md R207). -/
theorem exec_ldcurve_of_no_row {cid : Nat} (h : romRow cid = none) (s : State) :
    exec (.ldcurve cid) s = .next (s.failWith .curveConstructionError) := by
  rw [exec_ldcurve, execLdcurve, h]; rfl

/-! ### The obligations -/

/-- Settles O49: LDCURVE 0 and 1 load the ROM's rows, whose moduli and second coefficient a have the closed forms stated. -/
theorem ldcurveLoadsTheRow : Obligations.LdcurveLoadsTheRow := by
  intro s
  rw [← secp192k1_p, ← secp192r1_p, ← secp192r1_a]
  exact ⟨exec_ldcurve_of_row (row := secp192k1) rfl s, exec_ldcurve_of_row (row := secp192r1) rfl s⟩

/-- Settles O50: a CID other than 0 and 1 has no row, and error entry leaves every curve register as it was. -/
theorem unknownCurveFails : Obligations.UnknownCurveFails := by
  intro cid s h0 h1
  have hnone : romRow cid = none := (romRow_eq_none_iff cid).mpr ⟨h0, h1⟩
  exact ⟨_, exec_ldcurve_of_no_row hnone s, rfl, rfl, rfl, rfl, rfl, rfl, rfl, rfl, rfl, rfl⟩

end Sys2Proof.Machine
end

section
/-! The statements of 45_host_procedures.md: the codec of points (R221 to R224), the scalar multiplication both procedures rest on (R220), key generation (R225, R226), and the shared secret (R227, R228). -/

namespace Sys2Proof.Machine

open Sys2Proof.Stated

/-! ### Hexadecimal strings -/

theorem hexValue_hexDigit {d : Nat} (h : d < 16) : hexValue (hexDigit d) = some d := by
  have hall : ∀ d : Fin 16, hexValue (hexDigit d) = some d.val := by decide
  exact hall ⟨d, h⟩

theorem hexDigits_length (n x : Nat) : (hexDigits n x).length = n := by
  induction n generalizing x with
  | zero => rfl
  | succ n ih => rw [hexDigits, List.length_append, ih, List.length_singleton]

theorem hexValues_cons_of_some {c : Char} {cs : List Char} {d : Nat} {ds : List Nat} (hc : hexValue c = some d)
    (hcs : hexValues cs = some ds) : hexValues (c :: cs) = some (d :: ds) := by
  simp [hexValues, hc, hcs]

theorem exists_of_hexValues_cons {c : Char} {cs : List Char} {vs : List Nat} (h : hexValues (c :: cs) = some vs) :
    ∃ d ds, hexValue c = some d ∧ hexValues cs = some ds ∧ vs = d :: ds := by
  rw [hexValues] at h
  split at h
  · next d ds hc hcs => exact ⟨d, ds, hc, hcs, (Option.some.inj h).symm⟩
  · cases h

theorem hexValues_append {cs cs' : List Char} {ds ds' : List Nat} (h : hexValues cs = some ds)
    (h' : hexValues cs' = some ds') : hexValues (cs ++ cs') = some (ds ++ ds') := by
  induction cs generalizing ds with
  | nil => cases h; exact h'
  | cons c cs ih =>
    obtain ⟨d, es, hc, hcs, rfl⟩ := exists_of_hexValues_cons h
    exact hexValues_cons_of_some hc (ih hcs)

theorem numeral_concat (ds : List Nat) (d : Nat) : numeral (ds ++ [d]) = numeral ds * 16 + d := by
  rw [numeral, List.foldl_append]; rfl

/-- The n digits of a value that needs no more are read back as n digit values, which make up the value again (45_host_procedures.md R221, R223). -/
theorem exists_hexValues_hexDigits {n x : Nat} (hx : x < 16 ^ n) :
    ∃ ds, hexValues (hexDigits n x) = some ds ∧ ds.length = n ∧ numeral ds = x := by
  induction n generalizing x with
  | zero => exact ⟨[], rfl, rfl, (Nat.lt_one_iff.mp hx).symm⟩
  | succ n ih =>
    have hhigh : x / 16 < 16 ^ n := Nat.div_lt_of_lt_mul (by rwa [← Nat.pow_succ'])
    obtain ⟨ds, hds, hlen, hval⟩ := ih hhigh
    have hlow := hexValues_cons_of_some (hexValue_hexDigit (Nat.mod_lt x (by decide : 16 > 0))) (cs := []) rfl
    refine ⟨ds ++ [x % 16], hexValues_append hds hlow, by rw [List.length_append, hlen, List.length_singleton], ?_⟩
    rw [numeral_concat, hval, Nat.div_add_mod']

/-! ### The codec of points -/

/-- The tag 04, then two coordinates of n digits each below 2^192 (45_host_procedures.md R223). -/
theorem decodePoint_of_hexValues {str : List Char} {n : Nat} {dx dy : List Nat}
    (h : hexValues str = some (dx ++ dy)) (hn : 0 < n) (hdx : dx.length = n) (hdy : dy.length = n)
    (hx : numeral dx < 2 ^ 192) (hy : numeral dy < 2 ^ 192) :
    decodePoint ('0' :: '4' :: str) = .ok (.affine (numeral dx) (numeral dy)) := by
  have hhalf : (dx ++ dy).length / 2 = dx.length := by rw [List.length_append]; omega
  have hlen : ¬ ((dx ++ dy).length % 2 = 1 ∨ (dx ++ dy).length = 0) := by rw [List.length_append]; omega
  have hfit : ¬ (2 ^ 192 ≤ numeral dx ∨ 2 ^ 192 ≤ numeral dy) := by omega
  simp only [decodePoint, h, if_neg hlen, hhalf, List.take_left, List.drop_left, if_neg hfit]

theorem decodePoint_hexDigits {n x y : Nat} (hn : 0 < n) (hx : x < 16 ^ n) (hy : y < 16 ^ n) (hx' : x < 2 ^ 192)
    (hy' : y < 2 ^ 192) : decodePoint ('0' :: '4' :: (hexDigits n x ++ hexDigits n y)) = .ok (.affine x y) := by
  obtain ⟨dx, hdx, hxlen, rfl⟩ := exists_hexValues_hexDigits hx
  obtain ⟨dy, hdy, hylen, rfl⟩ := exists_hexValues_hexDigits hy
  exact decodePoint_of_hexValues (hexValues_append hdx hdy) hn hxlen hylen hx' hy'

theorem bitlen_le_fieldBytes (p : Nat) : bitlen p ≤ 8 * fieldBytes p := by unfold fieldBytes; omega

/-- A residue mod p fits in `L` bytes, 2·L digits (45_host_procedures.md R221). -/
theorem lt_pow_fieldBytes {p x : Nat} (h : x < p) : x < 16 ^ (2 * fieldBytes p) :=
  calc x < 2 ^ bitlen p := h.trans (lt_two_pow_bitlen p)
    _ ≤ 2 ^ (4 * (2 * fieldBytes p)) := Nat.pow_le_pow_right (by decide) (by have hbits := bitlen_le_fieldBytes p; omega)
    _ = 16 ^ (2 * fieldBytes p) := Nat.pow_mul 2 4 _

theorem fieldBytes_pos {p : Nat} (h : 0 < p) : 0 < fieldBytes p := by
  have hlog := bitlen_of_ne_zero h.ne'
  have hbits := bitlen_le_fieldBytes p
  omega

/-! ### `SETP`, `RUN`, `GETR` on an idle block -/

/-- `SETP` of an affine point writes P and its tag, and puts `QINF` back as it was (30_encoding.md R114). -/
theorem setP_affine {s : State} (hb : s.busy = false) (x y : Nat) :
    setP (.affine x y) s = { s with pinf := false, px := BitVec.ofNat 192 x, py := BitVec.ofNat 192 y } := by
  have hx := wrbig_eq_setBig (r := .px) (BitVec.ofNat 192 x) hb rfl
  have hy := wrbig_eq_setBig (s := s.setBig .px (BitVec.ofNat 192 x)) (r := .py) (BitVec.ofNat 192 y) hb rfl
  simp only [setP, hx, hy, rd, wr, hostRead_pflags]
  rw [hostWrite_pflags _ (by exact hb), bitVal, pflagsWord_getLsbD]
  cases hq : s.qinf <;> simp [writePflags, State.setBig, hq]

/-- A `RUN` line on an idle block, whatever code an error that was cleared has left (30_encoding.md R110, R114). -/
theorem runCmd_of_idle {i : Instr} {s : State} (hb : s.busy = false) (he : s.err = false) (hwf : i.wellFormed = true) :
    runCmd i s = exec i (s.accept (encode i)) := by
  have hd := decode_encode hwf
  rw [runCmd, wait, cmd, wr, hostWrite_cmd _ hb, issue_of_decode_ok he hd]
  exact engineTurn_of_decode rfl hd

/-- `STATUS` bit 2 is `ERR` (10_state.md R45). -/
theorem statusWord_getLsbD_err (s : State) : (statusWord s).getLsbD 2 = s.err := by
  rw [statusWord, bit, bit, bit, BitVec.getLsbD_append, BitVec.getLsbD_append, BitVec.getLsbD_append]
  simp

/-- `GETR` reads back the point that a command has written (10_state.md R35, 30_encoding.md R114). -/
theorem getR_writeR_succeed {s : State} {v : Point} (h : InField s.cp.toNat v) : getR (s.writeR v).succeed = v := by
  have htag : (rd 0x008 (s.writeR v).succeed).getLsbD 2 = (s.writeR v).rinf := by
    rw [rd, hostRead_pflags, pflagsWord_getLsbD]; simp
  rw [getR, htag, rdbig_eq_big, rdbig_eq_big]
  cases v with
  | infinity => rfl
  | affine x y =>
    obtain ⟨hx, hy⟩ := h
    exact congrArg₂ Point.affine (toNat_ofNat_of_lt hx) (toNat_ofNat_of_lt hy)

/-! ### `SETP v; WRBIG K, d; RUN SMUL; GETR` -/

/-- A multiple of a point in the field is in the field (40_field_arithmetic.md R136). -/
theorem inField_of_smul_ok {v w : Point} {k a p : Nat} (hp : 0 < p) (hv : InField p v) (hw : smul v k a p = .ok w) :
    InField p w := by
  obtain ⟨u, hu, hin⟩ | herr := smul_cases (a := a) k hp hv
  · obtain rfl : u = w := Except.ok.inj (hu.symm.trans hw)
    exact hin
  · cases herr.symm.trans hw

/-- The state in which SMUL runs for the affine point (x, y) and the scalar d (45_host_procedures.md R225, R227). -/
def State.smulSetup (s : State) (x y d : Nat) : State :=
  { s with
    pinf := false, px := BitVec.ofNat 192 x, py := BitVec.ofNat 192 y, k := BitVec.ofNat 192 d,
    cur := encode .smul, busy := true, done := false }

theorem runSmul_eq_exec {s : State} (hb : s.busy = false) (he : s.err = false) (x y d : Nat) :
    runCmd .smul (wrbig .k (BitVec.ofNat 192 d) (setP (.affine x y) s)) = exec .smul (s.smulSetup x y d) := by
  rw [setP_affine hb, wrbig_eq_setBig _ (by exact hb) rfl]
  exact runCmd_of_idle (by exact hb) (by exact he) rfl

/-- SMUL on that state writes the multiple to R (43_scalar_mult.md R191). -/
theorem exec_smulSetup {s : State} {x y d : Nat} {w : Point} (hca : s.ca < s.cp)
    (hP : InField s.cp.toNat (.affine x y)) (hd : d < 2 ^ 192)
    (hw : smul (.affine x y) d s.ca.toNat s.cp.toNat = .ok w) :
    exec .smul (s.smulSetup x y d) = .next ((s.smulSetup x y d).writeR w).succeed := by
  obtain ⟨hx, hy⟩ := hP
  refine exec_smul_of_ok ((rangeP_iff _).mpr ⟨hca, fun _ => ⟨ofNat_lt hx, ofNat_lt hy⟩⟩) ?_
  have hpoint : (s.smulSetup x y d).pointP = .affine x y :=
    congrArg₂ Point.affine (toNat_ofNat_of_lt hx) (toNat_ofNat_of_lt hy)
  have hk : (s.smulSetup x y d).k.toNat = d := (BitVec.toNat_ofNat d 192).trans (Nat.mod_eq_of_lt hd)
  rw [hpoint, hk]
  exact hw

/-- On an idle block with no error the four lines return the multiple, and keep `CP` (45_host_procedures.md R220). -/
theorem multiplyPoint_of_smul {s : State} {x y d : Nat} {w : Point} (hb : s.busy = false) (he : s.err = false)
    (hca : s.ca < s.cp) (hP : InField s.cp.toNat (.affine x y)) (hd : d < 2 ^ 192)
    (hw : smul (.affine x y) d s.ca.toNat s.cp.toNat = .ok w) :
    ∃ t, multiplyPoint (.affine x y) d s = .ok (w, t) ∧ t.cp = s.cp := by
  have herr : (rd 0x004 ((s.smulSetup x y d).writeR w).succeed).getLsbD 2 = false := by
    rw [rd, hostRead_status, statusWord_getLsbD_err, State.succeed_err, State.writeR_err]
    exact he
  refine ⟨((s.smulSetup x y d).writeR w).succeed, ?_, by rw [State.succeed_cp, State.writeR_cp]; rfl⟩
  have hrun := (runSmul_eq_exec hb he x y d).trans (exec_smulSetup hca hP hd hw)
  have hget : getR ((s.smulSetup x y d).writeR w).succeed = w :=
    getR_writeR_succeed (inField_of_smul_ok (pos_of_lt hca) hP hw)
  simp only [multiplyPoint, hrun, herr, hget, Bool.false_eq_true, if_false]

/-! ### The shared secret -/

/-- `derive_shared_secret` of a peer's string that decodes to (x, y) is the encoding of d times that point (45_host_procedures.md R227). -/
theorem deriveSharedSecret_of_smul {s : State} {x y d xS yS : Nat} {peer secret : List Char} (hb : s.busy = false)
    (he : s.err = false) (hca : s.ca < s.cp) (hP : InField s.cp.toNat (.affine x y)) (hd : d < 2 ^ 192)
    (hpeer : decodePoint peer = .ok (.affine x y))
    (hw : smul (.affine x y) d s.ca.toNat s.cp.toNat = .ok (.affine xS yS))
    (hsecret : encodePoint s.cp.toNat (.affine xS yS) = .ok secret) :
    ∃ t, deriveSharedSecret d peer s = .ok (secret, t) := by
  obtain ⟨t, hmul, hcp⟩ := multiplyPoint_of_smul hb he hca hP hd hw
  have hcp' : rdbig .cp t = s.cp := (rdbig_eq_big .cp t).trans hcp
  exact ⟨t, by simp only [deriveSharedSecret, hpeer, hmul, hcp', hsecret]⟩

/-! ### The scalar drawn -/

theorem bytesValue_concat (bs : List (BitVec 8)) (b : BitVec 8) :
    bytesValue (bs ++ [b]) = bytesValue bs * 256 + b.toNat := by
  rw [bytesValue, List.foldl_append]; rfl

/-- The first byte of an answer weighs most (45_host_procedures.md R225). -/
theorem bytesValue_eq_sum (bs : List (BitVec 8)) :
    bytesValue bs = ∑ i ∈ Finset.range bs.length, (bs.getD i 0).toNat * 256 ^ (bs.length - 1 - i) := by
  induction bs using List.reverseRecOn with
  | nil => rfl
  | append_singleton bs b ih =>
    rw [bytesValue_concat, ih, List.length_append, List.length_singleton, Finset.sum_range_succ, Finset.sum_mul]
    congr 1
    · refine Finset.sum_congr rfl fun i hi => ?_
      have hi := Finset.mem_range.mp hi
      have hexp : bs.length + 1 - 1 - i = bs.length - 1 - i + 1 := by omega
      rw [List.getD_append _ _ _ _ hi, hexp, Nat.pow_succ, Nat.mul_assoc]
    · simp

theorem bytesValue_lt (bs : List (BitVec 8)) : bytesValue bs < 256 ^ bs.length := by
  induction bs using List.reverseRecOn with
  | nil => exact Nat.one_pos
  | append_singleton bs b ih =>
    have hb := b.isLt
    rw [bytesValue_concat, List.length_append, List.length_singleton, Nat.pow_succ]
    omega

/-- An answer of at most 24 bytes fits `K`. -/
theorem bytesValue_lt_of_length_le {bs : List (BitVec 8)} (h : bs.length ≤ 24) : bytesValue bs < 2 ^ 192 :=
  calc bytesValue bs < 256 ^ bs.length := bytesValue_lt bs
    _ ≤ 256 ^ 24 := Nat.pow_le_pow_right (by decide) h
    _ = 2 ^ 192 := by decide

/-- An answer of the right length is taken, under `rejection` when it lies in [1, n − 1] (45_host_procedures.md R225, R226). -/
theorem drawScalar_of_some {sampling : Sampling} {nbytes n : Nat} {bs : List (BitVec 8)}
    (rest : List (Option (List (BitVec 8)))) (hlen : bs.length = nbytes)
    (hrej : sampling = .rejection → 1 ≤ bytesValue bs ∧ bytesValue bs + 1 ≤ n) :
    drawScalar sampling nbytes n (some bs :: rest) = .ok (bytesValue bs) := by
  cases sampling with
  | bitlength => exact if_neg (not_not.mpr hlen)
  | rejection => exact (if_neg (not_not.mpr hlen)).trans (if_pos (hrej rfl))

/-! ### The key pair -/

section

variable {s t : State} {sampling : Sampling} {draws : List (Option (List (BitVec 8)))} {d : Nat}
  (hbytes : s.keybits.toNat % 8 = 0) (hle : s.keybits.toNat ≤ 192)
  (hdraw : drawScalar sampling (s.keybits.toNat / 8) s.cn.toNat draws = .ok d)

include hbytes hle hdraw

/-- A scalar and a public point that is affine make a key pair (45_host_procedures.md R225). -/
theorem generateKeyPair_of_affine {x y : Nat}
    (hmul : multiplyPoint (.affine s.cgx.toNat s.cgy.toNat) d s = .ok (.affine x y, t)) :
    generateKeyPair sampling draws s = .ok (d, .affine x y, t) := by
  have hkb : ¬ (s.keybits.toNat % 8 ≠ 0 ∨ 192 < s.keybits.toNat) := by omega
  simp only [generateKeyPair, rd, hostRead_keybits, rdbig_eq_big, State.big, if_neg hkb, hdraw, hmul]

/-- A public point that is the identity leaves no defined result (45_host_procedures.md R222, 93_implementation_defined.md U4). -/
theorem generateKeyPair_of_infinity
    (hmul : multiplyPoint (.affine s.cgx.toNat s.cgy.toNat) d s = .ok (.infinity, t)) :
    generateKeyPair sampling draws s = .error .noDefinedResult := by
  have hkb : ¬ (s.keybits.toNat % 8 ≠ 0 ∨ 192 < s.keybits.toNat) := by omega
  simp only [generateKeyPair, rd, hostRead_keybits, rdbig_eq_big, State.big, if_neg hkb, hdraw, hmul]

end

/-! ### The obligations -/

/-- Settles O59: coordinates below p fit the 2·L digits written, which the decoder halves and reads back. -/
theorem codecRoundTrip : Obligations.CodecRoundTrip := by
  intro p x y hp hx hy
  have hpos : 0 < 2 * fieldBytes p := Nat.mul_pos (by decide) (fieldBytes_pos (Nat.zero_lt_of_lt hx))
  refine ⟨_, rfl, ?_, decodePoint_hexDigits hpos (lt_pow_fieldBytes hx) (lt_pow_fieldBytes hy) (hx.trans hp) (hy.trans hp)⟩
  simp only [List.length_cons, List.length_append, hexDigits_length]
  omega

/-- Settles O58: each public point is a point of the curve, so its encoding decodes to it, and by key agreement dA times B's point is dB times A's. -/
theorem sharedSecretsAgree : Obligations.SharedSecretsAgree := by
  intro s _ hodd hca hb he g X hX dA dB xA yA xB yB xS yS hdA hdB hA hB hS
  obtain ⟨qA, qB, shared, hqA, hqB, hSA, hSB⟩ := keyAgreement s hodd hca g X hX dA dB
  obtain rfl : qA = .affine xA yA := Except.ok.inj (hqA.symm.trans hA)
  obtain rfl : qB = .affine xB yB := Except.ok.inj (hqB.symm.trans hB)
  obtain rfl : shared = .affine xS yS := Except.ok.inj (hSA.symm.trans hS)
  have hinField {d : Nat} {v : Point} : smul g d s.ca.toNat s.cp.toNat = .ok v → InField s.cp.toNat v :=
    inField_of_smul_ok (pos_of_lt hca) (inField_of_represents hX)
  obtain ⟨strA, hencA, -, hdecA⟩ := codecRoundTrip _ xA yA s.cp.isLt (hinField hA).1 (hinField hA).2
  obtain ⟨strB, hencB, -, hdecB⟩ := codecRoundTrip _ xB yB s.cp.isLt (hinField hB).1 (hinField hB).2
  obtain ⟨tA, hderiveA⟩ := deriveSharedSecret_of_smul hb he hca (hinField hB) hdA hdecB hSA rfl
  obtain ⟨tB, hderiveB⟩ := deriveSharedSecret_of_smul hb he hca (hinField hA) hdB hdecA hSB rfl
  exact ⟨strA, strB, _, tA, tB, hencA, hencB, rfl, hderiveA, hderiveB⟩

/-- Settles O60: the answer taken is d, SMUL of the generator gives d·G, and the procedure asks only whether that is affine. -/
theorem keyPairHoldsTheMultipleOfG : Obligations.KeyPairHoldsTheMultipleOfG := by
  intro s _ hodd hca hb he X hG hmod hle sampling bytes rest d hlen hd hrej
  rw [← bytesValue_eq_sum] at hd
  subst hd
  have hdraw := drawScalar_of_some rest hlen hrej
  obtain ⟨v, hv, hrep⟩ := smul_represents hodd (bytesValue bytes) hG
  have hfit : bytesValue bytes < 2 ^ 192 := bytesValue_lt_of_length_le (by omega)
  obtain ⟨t, hmul, -⟩ := multiplyPoint_of_smul hb he hca (inField_of_represents hG) hfit hv
  refine ⟨v, hrep, fun x y hxy => ⟨t, ?_⟩, fun hinf => ?_⟩
  · exact generateKeyPair_of_affine hmod hle hdraw (hxy ▸ hmul)
  · exact generateKeyPair_of_infinity hmod hle hdraw (hinf ▸ hmul)

end Sys2Proof.Machine
end

section
/-! The statements of 60_exceptions.md: error entry (R255), an error that stays until it is cleared or the block reset (R257, R258), and runs that never stop (R260). -/

namespace Sys2Proof.Machine

/-! ### A legal state has a next one -/

theorem exec_answers (i : Instr) (s : State) : ∃ t, exec i s = .next t := by
  obtain ⟨u, _, h⟩ | ⟨e, _, h⟩ := exec_cases i s
  · exact ⟨_, h⟩
  · exact ⟨_, h⟩

/-- The engine faults on a running word that is no command, which `CurLegal` shuts out (30_encoding.md R110, log 10). -/
theorem engineTurn_answers {s : State} (hs : CurLegal s) : ∃ t, engineTurn s = .next t := by
  obtain ⟨_, h⟩ | ⟨i, _, _, h⟩ | ⟨e, hb, hd, _⟩ := engineTurn_cases s
  · exact ⟨_, h⟩
  · rw [h]; exact exec_answers i s
  · obtain ⟨i, hi⟩ := hs hb
    cases hd.symm.trans hi

/-- Every other event answers whatever the state. -/
theorem step_answers {s : State} (hs : CurLegal s) : ∃ t, step s = .next t := by
  obtain ⟨_, h⟩ | ⟨rest, _, h⟩ | ⟨w, rest, _, h⟩ | ⟨w, v, rest, _, h⟩ | ⟨rest, _, h⟩ := step_cases s <;> rw [h]
  case inl | inr.inl => exact engineTurn_answers hs
  all_goals exact ⟨_, rfl⟩

/-- Where a predicate gives every state a next one and every step keeps it, no run stops. -/
theorem run_answers {M : Host.Core} {P : M.State → Prop} (hnext : ∀ s, P s → ∃ t, M.step s = .next t)
    (hstep : ∀ s t, P s → M.step s = .next t → P t) (n : Nat) : ∀ s, P s → ∃ t, M.run n s = .next t := by
  induction n with
  | zero => exact fun s _ => ⟨s, rfl⟩
  | succ n ih =>
    intro s hs
    obtain ⟨u, hu⟩ := hnext s hs
    rw [Host.Core.run, hu]
    exact ih u (hstep s u hs hu)

/-! ### A write of `STATUS` -/

theorem hostWrite_status (v : Word) (s : State) : hostWrite (wordAt 0x004) v s = s.clearError v := rfl

theorem clearError_of_err {v : Word} {s : State} (hv : v.getLsbD 2 = true) (he : s.err = true) :
    s.clearError v = { s with err := false, errcode := 0 } :=
  if_pos ⟨hv, he⟩

theorem clearError_of_no_err (v : Word) {s : State} (he : s.err = false) : s.clearError v = s := by
  rw [State.clearError, he, if_neg (by simp)]

theorem clearError_of_bit_clear {v : Word} (s : State) (hv : v.getLsbD 2 = false) : s.clearError v = s := by
  rw [State.clearError, hv, if_neg (by simp)]

/-! ### An error that stays -/

/-- The error of s is pending in t, with its code, and no command runs. -/
structure ErrorStays (s t : State) : Prop where
  err : t.err = true
  errcode : t.errcode = s.errcode
  busy : t.busy = false

/-- While an error is pending a host write leaves the error and `BUSY`, a write of a command word included, unless it is the one that clears the error (60_exceptions.md R257, R258). -/
theorem hostWrite_errorStays {s : State} {w : WordIndex} {v : Word} (he : s.err = true) (hb : s.busy = false)
    (hw : 4 * w.val = 0x004 → v.getLsbD 2 = false) : ErrorStays s (hostWrite w v s) := by
  obtain ⟨hoff, h⟩ | h | ⟨_, _, h⟩ | ⟨_, _, h⟩ | ⟨_, _, h⟩ | ⟨_, _, h⟩ | ⟨r, j, _, _, _, _, h⟩ := hostWrite_cases w v s <;>
    rw [h]
  case inl => rw [clearError_of_bit_clear s (hw hoff)]; exact ⟨he, rfl, hb⟩
  case inr.inr.inl => rw [issue_of_err v he]; exact ⟨he, rfl, hb⟩
  case inr.inr.inr.inr.inr.inr => exact ⟨by simp [he], by simp, by simp [hb]⟩
  all_goals exact ⟨he, rfl, hb⟩

/-! ### The obligations -/

/-- Settles O10: a legal state has a next one, and every step keeps the invariant. -/
theorem legalStatesNeverStop : Obligations.LegalStatesNeverStop := fun s hs n =>
  run_answers (M := Sys2Proof.core) (P := Inv) (fun _ h => step_answers h.cur) (fun _ _ => step_inv) n s hs

/-- Settles O25: with an error pending the block is idle, so no command completes, and only the clearing write and a reset reach the error. -/
theorem errorIsStickyAndBlocks : Obligations.ErrorIsStickyAndBlocks := by
  intro s t hs he h
  obtain ⟨hb, _, _⟩ := hs.2.1 he
  obtain ⟨_, _, rfl⟩ | ⟨i, hbusy, _⟩ | ⟨w, _, _, rfl⟩ | ⟨w, v, rest, hp, rfl⟩ | ⟨rest, hp, _⟩ := step_next_cases h
  · exact .inl ⟨he, rfl, hb⟩
  · cases hb.symm.trans hbusy
  · exact .inl ⟨he, rfl, hb⟩
  · by_cases hclear : 4 * w.val = 0x004 ∧ v.getLsbD 2 = true
    · exact .inr (.inr ⟨w, v, rest, hp, hclear⟩)
    · obtain ⟨herr, hcode, hidle⟩ := hostWrite_errorStays (s := s.pop) (w := w) (v := v) he hb (by simpa using hclear)
      exact .inl ⟨herr, hcode, hidle⟩
  · exact .inr (.inl ⟨rest, hp⟩)

/-- Settles O26: a success leaves `ERR` = 0, so the command took its failing branch, which is error entry with a kind of its own; an illegal word is recorded by `Issue`. -/
theorem failureWritesOnlyTheStatus : Obligations.FailureWritesOnlyTheStatus := by
  refine ⟨fun i s t he h herr => ?_, fun c s hb he ⟨e, hd⟩ => ?_⟩
  · obtain ⟨u, hw, rfl⟩ | ⟨e, hf, rfl⟩ := exec_next_cases h
    · obtain ⟨hu, _⟩ := hw.status
      cases (hu.trans he).symm.trans herr
    · exact ⟨rfl, ⟨e, rfl, h⟩, hf.code, fun w hw => hostRead_failWith s e hw⟩
  · rw [hostWrite_cmd c hb, issue_of_decode_error hb he hd, ← hb]

/-- Settles O24: a write of `STATUS` is `clearError`, by its three cases. -/
theorem writingStatusClearsTheError : Obligations.WritingStatusClearsTheError := by
  intro s v
  rw [hostWrite_status]
  exact ⟨clearError_of_err, fun _ => clearError_of_no_err v, clearError_of_bit_clear s⟩

end Sys2Proof.Machine
end

section
/-! The statements of 70_reset_and_hazards.md: reset in any state (R281, R282), the block without a curve (R283), dropped writes (R287), and commands that complete (R294, R296). -/

namespace Sys2Proof.Machine

open Sys2Proof.Stated

/-! ### The window after a reset -/

@[simp] theorem big_resetEvent (s : State) (r : BigReg) : s.resetEvent.big r = 0 := by cases r <;> rfl

@[simp] theorem statusWord_resetEvent (s : State) : statusWord s.resetEvent = 0 := by
  change statusWord State.reset = 0
  decide

@[simp] theorem pflagsWord_resetEvent (s : State) : pflagsWord s.resetEvent = 0 := by
  change pflagsWord State.reset = 0
  decide

theorem bigWord_zero (j : Nat) : bigWord 0 j = 0 := BitVec.extractLsb'_zero

/-- Every word of the window reads 0 after a reset (70_reset_and_hazards.md R281). -/
theorem hostRead_resetEvent (s : State) (w : WordIndex) : hostRead w s.resetEvent = 0 := by
  unfold hostRead
  simp only [statusWord_resetEvent, pflagsWord_resetEvent, State.resetEvent_keybits, State.resetEvent_cofactor,
    big_resetEvent, bigWord_zero]
  split_ifs
  case neg => split <;> rfl
  all_goals rfl

/-! ### Dropped writes -/

/-- While a command runs only `STATUS` takes a write (20_memory.md R78). -/
theorem hostWrite_of_busy (v : Word) {s : State} {w : WordIndex} (hb : s.busy = true) (hw : 4 * w.val ≠ 0x004) :
    hostWrite w v s = s := by
  simp [hostWrite, hw, hb]

/-- While an error is pending a command word is dropped, whether or not a command runs (30_encoding.md R110). -/
theorem hostWrite_cmd_of_err (v : Word) {s : State} {w : WordIndex} (he : s.err = true) (hw : 4 * w.val = 0x000) :
    hostWrite w v s = s := by
  simp [hostWrite, hw, issue_of_err v he]

theorem bigReg_of_offset {r r' : BigReg} {j j' : Nat} (hj : j < 6) (hj' : j' < 6)
    (h : baseOf r + 4 * j = baseOf r' + 4 * j') : r = r' := by
  have hl := locate_bigRegs r hj
  rw [h, locate_bigRegs r' hj'] at hl
  cases hl
  rfl

/-- A word of a register the host may not write takes no write (20_memory.md R72, R78). -/
theorem hostWrite_readOnly (v : Word) {s : State} {w : WordIndex} {r : BigReg} {j : Nat}
    (hr : r.hostWritable = false) (hj : j < 6) (hw : 4 * w.val = baseOf r + 4 * j) : hostWrite w v s = s := by
  obtain ⟨hge, _, _⟩ := baseOf_bounds r
  obtain ⟨h, _⟩ | h | ⟨_, h, _⟩ | ⟨_, h, _⟩ | ⟨_, h, _⟩ | ⟨_, h, _⟩ | ⟨r', j', _, hr', hj', h, _⟩ := hostWrite_cases w v s
  case inr.inl => exact h
  case inr.inr.inr.inr.inr.inr =>
    obtain rfl := bigReg_of_offset hj hj' (hw.symm.trans h)
    cases hr.symm.trans hr'
  all_goals omega

/-! ### A completed command -/

theorem exec_ends {i : Instr} {s t : State} (h : exec i s = .next t) : t.busy = false ∧ t.done = true := by
  obtain ⟨u, _, rfl⟩ | ⟨e, _, rfl⟩ := exec_next_cases h <;> exact ⟨rfl, rfl⟩

/-- The operands, the scalar and the input tags (10_state.md R32, R33, R37) and the host's lists are in t what they are in s. -/
structure SameInputs (s t : State) : Prop where
  fa : t.fa = s.fa
  fb : t.fb = s.fb
  px : t.px = s.px
  py : t.py = s.py
  pinf : t.pinf = s.pinf
  qx : t.qx = s.qx
  qy : t.qy = s.qy
  qinf : t.qinf = s.qinf
  k : t.k = s.k
  pending : t.pending = s.pending
  answers : t.answers = s.answers

/-- A command writes `FR`, R, the curve registers or the error bits, and none of its inputs (10_state.md R50). -/
theorem exec_sameInputs {i : Instr} {s t : State} (h : exec i s = .next t) : SameInputs s t := by
  obtain ⟨u, hw, rfl⟩ | ⟨e, _, rfl⟩ := exec_next_cases h
  · obtain hi | hi | ⟨cid, rfl⟩ := command_family i
    · obtain ⟨v, rfl⟩ := hw.of_isFieldCommand hi; constructor <;> rfl
    · obtain ⟨v, rfl⟩ := hw.of_isPointCommand hi; constructor <;> simp
    · obtain ⟨row, _, rfl⟩ := hw; constructor <;> rfl
  · constructor <;> rfl

/-! ### Steps use up the list of events -/

theorem issue_pending (c : Word) (s : State) : (issue c s).pending = s.pending := by
  obtain ⟨_, h⟩ | ⟨_, _, h⟩ | ⟨_, _, h⟩ := issue_cases c s <;> rw [h] <;> rfl

theorem hostWrite_pending (w : WordIndex) (v : Word) (s : State) : (hostWrite w v s).pending = s.pending := by
  obtain ⟨_, h⟩ | h | ⟨_, _, h⟩ | ⟨_, _, h⟩ | ⟨_, _, h⟩ | ⟨_, _, h⟩ | ⟨r, j, _, _, _, _, h⟩ := hostWrite_cases w v s <;>
    rw [h]
  case inl => exact State.clearError_pending s v
  case inr.inr.inl => exact issue_pending v s
  case inr.inr.inr.inr.inr.inr => exact State.setBig_pending s r _
  all_goals rfl

/-- Whatever takes effect, a step takes one event off the list and adds none. -/
theorem step_pending {s t : State} (h : step s = .next t) : t.pending = s.pending.tail := by
  obtain ⟨_, _, rfl⟩ | ⟨i, _, _, _, he⟩ | ⟨w, _, _, rfl⟩ | ⟨w, v, _, _, rfl⟩ | ⟨_, _, rfl⟩ := step_next_cases h
  case inr.inl => exact (exec_sameInputs he).pending
  case inr.inr.inr.inl => exact hostWrite_pending w v s.pop
  all_goals rfl

/-- With no event listed the engine has its turn, after which no command runs (70_reset_and_hazards.md R294, log 3). -/
theorem step_idle_of_pending_nil {s t : State} (hp : s.pending = []) (h : step s = .next t) : t.busy = false := by
  rw [step_of_pending_nil hp] at h
  obtain ⟨hb, he⟩ | ⟨i, _, _, he⟩ | ⟨e, _, _, he⟩ := engineTurn_cases s <;> rw [he] at h
  · injection h with h; exact h ▸ hb
  · exact (exec_ends h).1
  · cases h

/-- One step for each event listed and one more for the engine end in an idle block. -/
theorem run_ends_idle {n : Nat} : ∀ {s t : State}, s.pending.length = n →
    Host.Core.run Sys2Proof.core (n + 1) s = .next t → t.busy = false ∧ t.pending = [] := by
  induction n with
  | zero =>
    intro s t hn h
    obtain ⟨u, hu, hrun⟩ := run_succ_next h
    have hp : s.pending = [] := List.eq_nil_of_length_eq_zero hn
    injection hrun with hrun
    subst hrun
    exact ⟨step_idle_of_pending_nil hp hu, by rw [step_pending hu, hp, List.tail_nil]⟩
  | succ n ih =>
    intro s t hn h
    obtain ⟨u, hu, hrun⟩ := run_succ_next h
    exact ih (by rw [step_pending hu, List.length_tail, hn, Nat.add_sub_cancel]) hrun

/-! ### Without a curve -/

section
variable {s : State} (h : s.cp = 0)
include h

theorem not_lt_of_no_curve (x : Big) : ¬ x < s.cp := by rw [h]; exact BitVec.not_lt_zero

/-- No operand is below a modulus of 0 (40_field_arithmetic.md R130). -/
theorem complete_checked_of_no_curve (x : Big) (regs : List Big) (r : Except ErrKind State) :
    complete s (checked (inRange s.cp (x :: regs)) r) = .next (s.failWith .operandRange) :=
  complete_checked_outOfRange (fun hall => not_lt_of_no_curve h x (hall x List.mem_cons_self)) r

/-- The coefficient `CA` alone fails a point command's range check (42_group_law.md R166). -/
theorem not_rangeP_of_no_curve : ¬ s.rangeP = true := fun hr => not_lt_of_no_curve h s.ca ((rangeP_iff_inField s).mp hr).1

theorem not_rangePQ_of_no_curve : ¬ s.rangePQ = true :=
  fun hr => not_rangeP_of_no_curve h ((rangePQ_iff_inField s).mp hr).1

theorem exec_of_no_curve {i : Instr} (hi : ∀ cid, i ≠ .ldcurve cid) :
    exec i s = .next (s.failWith .operandRange) := by
  cases i with
  | modadd | modsub | modmul | modsqr | modinv | moddiv => exact complete_checked_of_no_curve h _ _ _
  | padd => exact complete_checked_of_not (not_rangePQ_of_no_curve h) _
  | pdbl | smul => exact complete_checked_of_not (not_rangeP_of_no_curve h) _
  | ldcurve cid => exact absurd rfl (hi cid)

end

/-! ### The obligations -/

/-- Settles O6: the step takes the reset off the list, and every visible field of its result is 0. -/
theorem resetClearsEverything : Obligations.ResetClearsEverything := by
  intro s rest hp
  exact ⟨_, step_of_pending hp, big_resetEvent _, rfl, rfl, rfl, rfl, rfl, rfl, rfl, rfl, rfl, hostRead_resetEvent _,
    rfl, rfl⟩

/-- Settles O11: a legal state's run never stops, each step takes one event off the list, and the engine's turn that follows the last leaves the block idle. -/
theorem busyEnds : Obligations.BusyEnds := by
  intro s hs
  obtain ⟨t, ht⟩ := legalStatesNeverStop s hs (s.pending.length + 1)
  exact ⟨t, ht, run_ends_idle rfl ht⟩

/-- Settles O21: each kind of dropped write by its own lemma. -/
theorem droppedWritesAreSilent : Obligations.DroppedWritesAreSilent := by
  intro s w v
  refine ⟨hostWrite_of_busy v, hostWrite_cmd_of_err v, ?_, hostWrite_reserved s v⟩
  rintro ⟨r, b, j, hrb, hr, hj, hw⟩
  obtain rfl := mem_offsetTable.1 hrb
  exact hostWrite_readOnly v (by rcases hr with rfl | rfl | rfl <;> rfl) hj hw

/-- Settles O27: every command answers a next state, idle and done, with its inputs as they were. -/
theorem everyCommandCompletes : Obligations.EveryCommandCompletes := by
  intro i s
  obtain ⟨t, h⟩ := exec_answers i s
  obtain ⟨hbusy, hdone⟩ := exec_ends h
  obtain ⟨hfa, hfb, hpx, hpy, hpinf, hqx, hqy, hqinf, hk, hpending, hanswers⟩ := exec_sameInputs h
  exact ⟨t, h, hbusy, hdone, hfa, hfb, hpx, hpy, hpinf, hqx, hqy, hqinf, hk, hpending, hanswers⟩

/-- Settles O28: after reset `CP` is 0, and no operand is below 0. -/
theorem noCurveMeansOperandRange : Obligations.NoCurveMeansOperandRange := ⟨rfl, fun _ _ h hi => exec_of_no_curve h hi⟩

end Sys2Proof.Machine
end
